-- ==== Sys2Proof/Word.lean ====
section
/-! DEFINITION. The word types of the hardware: what the spec treats as bits (00_scope.md R7, R8, R10, R11). -/

namespace Sys2Proof

/-- One byte: a general register, a timer, a key cell, a byte of memory (00_scope.md R7). -/
abbrev Byte := BitVec 8

/-- Sixteen bits: an instruction word, `pc`, `I`, a call-stack entry (00_scope.md R7, R8). -/
abbrev Word := BitVec 16

/-- A register index: a 4-bit field, so always 0..15 (10_state.md R22). -/
abbrev RegIx := BitVec 4

/-- A 12-bit address NNN (30_encoding.md R71). -/
abbrev Addr12 := BitVec 12

/-- The frame buffer as the one-bit bitmap it is: bit `k` is cell `k`, so a cell is 0 or 1 by its
type (10_state.md R34). DESIGN CHOICE of representation, safe, log entry 8. -/
abbrev FrameBuffer := BitVec 2048

/-- Register 15, the flag register VF (10_state.md R23). -/
abbrev VF : RegIx := 15#4

end Sys2Proof
end

