-- ==== Sys2Proof/Syntax.lean ====
section
/-! DEFINITION. The 34 instructions of 30_encoding.md R75, one constructor per row of spec/opcode_table.json. -/

namespace Sys2Proof

/-- An instruction with the operand fields its handler uses (30_encoding.md R71 to R73, R75). Ignored
bits of a word are no part of it (R79). The constructors stand in the order of the opcode table. -/
inductive Instr where
  /-- CLS (44_display.md R180) -/
  | cls
  /-- RET (41_control_flow.md R111) -/
  | ret
  /-- JP NNN (41_control_flow.md R112) -/
  | jp (nnn : Addr12)
  /-- CALL NNN (41_control_flow.md R113) -/
  | call (nnn : Addr12)
  /-- SE Vx, NN (41_control_flow.md R114) -/
  | seImm (x : RegIx) (nn : Byte)
  /-- SNE Vx, NN (41_control_flow.md R115) -/
  | sneImm (x : RegIx) (nn : Byte)
  /-- SE Vx, Vy (41_control_flow.md R116) -/
  | seReg (x y : RegIx)
  /-- LD Vx, NN (42_alu.md R131) -/
  | ldImm (x : RegIx) (nn : Byte)
  /-- ADD Vx, NN (42_alu.md R132) -/
  | addImm (x : RegIx) (nn : Byte)
  /-- LD Vx, Vy (42_alu.md R133) -/
  | ldReg (x y : RegIx)
  /-- OR Vx, Vy (42_alu.md R134) -/
  | orReg (x y : RegIx)
  /-- AND Vx, Vy (42_alu.md R135) -/
  | andReg (x y : RegIx)
  /-- XOR Vx, Vy (42_alu.md R136) -/
  | xorReg (x y : RegIx)
  /-- ADD Vx, Vy (42_alu.md R137) -/
  | addReg (x y : RegIx)
  /-- SUB Vx, Vy (42_alu.md R138) -/
  | subReg (x y : RegIx)
  /-- SHR Vx (42_alu.md R139) -/
  | shr (x : RegIx)
  /-- SUBN Vx, Vy (42_alu.md R140) -/
  | subnReg (x y : RegIx)
  /-- SHL Vx (42_alu.md R141) -/
  | shl (x : RegIx)
  /-- SNE Vx, Vy (41_control_flow.md R117) -/
  | sneReg (x y : RegIx)
  /-- LD I, NNN (43_index_memory.md R161) -/
  | ldI (nnn : Addr12)
  /-- JP V0, NNN (41_control_flow.md R118) -/
  | jpV0 (nnn : Addr12)
  /-- RND Vx, NN (42_alu.md R142) -/
  | rnd (x : RegIx) (nn : Byte)
  /-- DRW Vx, Vy, N (44_display.md R181) -/
  | drw (x y : RegIx) (n : BitVec 4)
  /-- SKP Vx (45_input_timers.md R190) -/
  | skp (x : RegIx)
  /-- SKNP Vx (45_input_timers.md R191) -/
  | sknp (x : RegIx)
  /-- LD Vx, DT (45_input_timers.md R192) -/
  | ldVxDT (x : RegIx)
  /-- LD Vx, K (45_input_timers.md R193) -/
  | ldVxK (x : RegIx)
  /-- LD DT, Vx (45_input_timers.md R194) -/
  | ldDTVx (x : RegIx)
  /-- LD ST, Vx (45_input_timers.md R195) -/
  | ldSTVx (x : RegIx)
  /-- ADD I, Vx (43_index_memory.md R162) -/
  | addI (x : RegIx)
  /-- LD F, Vx (43_index_memory.md R163) -/
  | ldF (x : RegIx)
  /-- LD B, Vx (43_index_memory.md R164) -/
  | ldB (x : RegIx)
  /-- LD [I], Vx (43_index_memory.md R165) -/
  | stRegs (x : RegIx)
  /-- LD Vx, [I] (43_index_memory.md R166) -/
  | ldRegs (x : RegIx)
deriving DecidableEq, Repr

end Sys2Proof
end

