-- ==== Sys2Proof/Decode.lean ====
section
/-! DEFINITION. The decoder (30_encoding.md R70 to R79), total on any word and any bytes, and the encoder written from the same table. -/

namespace Sys2Proof

/-- Why a sequence of bytes is no instruction. -/
inductive Reject where
  /-- the routing key of the word selects no handler (30_encoding.md R78); the step reports the word
  and goes on (40_step.md R95) -/
  | unclassified (w : Word)
  /-- fewer than two bytes: no instruction word can be formed (30_encoding.md R70) -/
  | truncated
deriving DecidableEq, Repr

/-! ### Fields (30_encoding.md R71) -/

/-- F, bits 15..12 -/
def fieldF (w : Word) : BitVec 4 := w.extractLsb' 12 4
/-- X, bits 11..8 -/
def fieldX (w : Word) : RegIx := w.extractLsb' 8 4
/-- Y, bits 7..4 -/
def fieldY (w : Word) : RegIx := w.extractLsb' 4 4
/-- N, bits 3..0 -/
def fieldN (w : Word) : BitVec 4 := w.extractLsb' 0 4
/-- NN, bits 7..0 -/
def fieldNN (w : Word) : Byte := w.extractLsb' 0 8
/-- NNN, bits 11..0 -/
def fieldNNN (w : Word) : Addr12 := w.extractLsb' 0 12

/-! ### Byte order (20_memory.md R54): the byte at the lower address is bits 15..8 -/

/-- The instruction word of two bytes, the byte at `pc` first. -/
def wordOfBytes (hi lo : Byte) : Word := hi ++ lo
/-- Bits 15..8 of a word, the byte stored at the lower address. -/
def highByte (w : Word) : Byte := w.extractLsb' 8 8
/-- Bits 7..0 of a word. -/
def lowByte (w : Word) : Byte := w.extractLsb' 0 8

/-- The routing key (30_encoding.md R74): family and bottom 4 bits (families 0 and 8), family and
bottom 8 bits (E and F), family alone (the rest). -/
def routingKey (w : Word) : Word :=
  if fieldF w = 0x0 then w &&& 0xF00F
  else if fieldF w = 0x8 then w &&& 0xF00F
  else if fieldF w = 0xE ∨ fieldF w = 0xF then w &&& 0xF0FF
  else w &&& 0xF000

/-- Classification through the opcode map (30_encoding.md R75): the 34 keys, and nothing else. -/
def decode (w : Word) : Except Reject Instr :=
  match (routingKey w).toNat with
  | 0x0000 => .ok .cls
  | 0x000E => .ok .ret
  | 0x1000 => .ok (.jp (fieldNNN w))
  | 0x2000 => .ok (.call (fieldNNN w))
  | 0x3000 => .ok (.seImm (fieldX w) (fieldNN w))
  | 0x4000 => .ok (.sneImm (fieldX w) (fieldNN w))
  | 0x5000 => .ok (.seReg (fieldX w) (fieldY w))
  | 0x6000 => .ok (.ldImm (fieldX w) (fieldNN w))
  | 0x7000 => .ok (.addImm (fieldX w) (fieldNN w))
  | 0x8000 => .ok (.ldReg (fieldX w) (fieldY w))
  | 0x8001 => .ok (.orReg (fieldX w) (fieldY w))
  | 0x8002 => .ok (.andReg (fieldX w) (fieldY w))
  | 0x8003 => .ok (.xorReg (fieldX w) (fieldY w))
  | 0x8004 => .ok (.addReg (fieldX w) (fieldY w))
  | 0x8005 => .ok (.subReg (fieldX w) (fieldY w))
  | 0x8006 => .ok (.shr (fieldX w))
  | 0x8007 => .ok (.subnReg (fieldX w) (fieldY w))
  | 0x800E => .ok (.shl (fieldX w))
  | 0x9000 => .ok (.sneReg (fieldX w) (fieldY w))
  | 0xA000 => .ok (.ldI (fieldNNN w))
  | 0xB000 => .ok (.jpV0 (fieldNNN w))
  | 0xC000 => .ok (.rnd (fieldX w) (fieldNN w))
  | 0xD000 => .ok (.drw (fieldX w) (fieldY w) (fieldN w))
  | 0xE09E => .ok (.skp (fieldX w))
  | 0xE0A1 => .ok (.sknp (fieldX w))
  | 0xF007 => .ok (.ldVxDT (fieldX w))
  | 0xF00A => .ok (.ldVxK (fieldX w))
  | 0xF015 => .ok (.ldDTVx (fieldX w))
  | 0xF018 => .ok (.ldSTVx (fieldX w))
  | 0xF01E => .ok (.addI (fieldX w))
  | 0xF029 => .ok (.ldF (fieldX w))
  | 0xF033 => .ok (.ldB (fieldX w))
  | 0xF055 => .ok (.stRegs (fieldX w))
  | 0xF065 => .ok (.ldRegs (fieldX w))
  | _ => .error (.unclassified w)

/-- Decoding a sequence of bytes: one instruction and the bytes after it (30_encoding.md R70). -/
def decodeBytes : List Byte → Except Reject (Instr × List Byte)
  | hi :: lo :: rest =>
    match decode (wordOfBytes hi lo) with
    | .ok i => .ok (i, rest)
    | .error r => .error r
  | _ => .error .truncated

/-! ### The encoder (30_encoding.md R75; ignored bits as an assembler writes them, log entry 14) -/

/-- The word of family `f` with fields X and NN. -/
def wordXNN (f : BitVec 4) (x : RegIx) (nn : Byte) : Word := f ++ x ++ nn
/-- The word of family `f` with fields X, Y and N. -/
def wordXYN (f : BitVec 4) (x y : RegIx) (n : BitVec 4) : Word := f ++ x ++ y ++ n
/-- The word of family `f` with field NNN. -/
def wordNNN (f : BitVec 4) (nnn : Addr12) : Word := f ++ nnn

/-- The canonical word of an instruction. -/
def encode : Instr → Word
  | .cls => 0x00E0
  | .ret => 0x00EE
  | .jp nnn => wordNNN 0x1 nnn
  | .call nnn => wordNNN 0x2 nnn
  | .seImm x nn => wordXNN 0x3 x nn
  | .sneImm x nn => wordXNN 0x4 x nn
  | .seReg x y => wordXYN 0x5 x y 0
  | .ldImm x nn => wordXNN 0x6 x nn
  | .addImm x nn => wordXNN 0x7 x nn
  | .ldReg x y => wordXYN 0x8 x y 0x0
  | .orReg x y => wordXYN 0x8 x y 0x1
  | .andReg x y => wordXYN 0x8 x y 0x2
  | .xorReg x y => wordXYN 0x8 x y 0x3
  | .addReg x y => wordXYN 0x8 x y 0x4
  | .subReg x y => wordXYN 0x8 x y 0x5
  | .shr x => wordXYN 0x8 x 0 0x6
  | .subnReg x y => wordXYN 0x8 x y 0x7
  | .shl x => wordXYN 0x8 x 0 0xE
  | .sneReg x y => wordXYN 0x9 x y 0
  | .ldI nnn => wordNNN 0xA nnn
  | .jpV0 nnn => wordNNN 0xB nnn
  | .rnd x nn => wordXNN 0xC x nn
  | .drw x y n => wordXYN 0xD x y n
  | .skp x => wordXNN 0xE x 0x9E
  | .sknp x => wordXNN 0xE x 0xA1
  | .ldVxDT x => wordXNN 0xF x 0x07
  | .ldVxK x => wordXNN 0xF x 0x0A
  | .ldDTVx x => wordXNN 0xF x 0x15
  | .ldSTVx x => wordXNN 0xF x 0x18
  | .addI x => wordXNN 0xF x 0x1E
  | .ldF x => wordXNN 0xF x 0x29
  | .ldB x => wordXNN 0xF x 0x33
  | .stRegs x => wordXNN 0xF x 0x55
  | .ldRegs x => wordXNN 0xF x 0x65

/-- The bytes of an instruction as memory holds them, the first at the lower address. -/
def encodeBytes (i : Instr) : List Byte := [highByte (encode i), lowByte (encode i)]

/-! ### The rows of the opcode map as mask and match (30_encoding.md R73, R75; spec/opcode_table.json) -/

/-- The bits that select an instruction's handler. -/
def Instr.mask : Instr → Word
  | .cls | .ret => 0xF00F
  | .ldReg .. | .orReg .. | .andReg .. | .xorReg .. | .addReg .. | .subReg .. | .shr .. | .subnReg ..
  | .shl .. => 0xF00F
  | .skp .. | .sknp .. | .ldVxDT .. | .ldVxK .. | .ldDTVx .. | .ldSTVx .. | .addI .. | .ldF .. | .ldB ..
  | .stRegs .. | .ldRegs .. => 0xF0FF
  | .jp .. | .call .. | .seImm .. | .sneImm .. | .seReg .. | .ldImm .. | .addImm .. | .sneReg .. | .ldI ..
  | .jpV0 .. | .rnd .. | .drw .. => 0xF000

/-- The value of those bits: the routing key of 30_encoding.md R75. -/
def Instr.pattern : Instr → Word
  | .cls => 0x0000
  | .ret => 0x000E
  | .jp .. => 0x1000
  | .call .. => 0x2000
  | .seImm .. => 0x3000
  | .sneImm .. => 0x4000
  | .seReg .. => 0x5000
  | .ldImm .. => 0x6000
  | .addImm .. => 0x7000
  | .ldReg .. => 0x8000
  | .orReg .. => 0x8001
  | .andReg .. => 0x8002
  | .xorReg .. => 0x8003
  | .addReg .. => 0x8004
  | .subReg .. => 0x8005
  | .shr .. => 0x8006
  | .subnReg .. => 0x8007
  | .shl .. => 0x800E
  | .sneReg .. => 0x9000
  | .ldI .. => 0xA000
  | .jpV0 .. => 0xB000
  | .rnd .. => 0xC000
  | .drw .. => 0xD000
  | .skp .. => 0xE09E
  | .sknp .. => 0xE0A1
  | .ldVxDT .. => 0xF007
  | .ldVxK .. => 0xF00A
  | .ldDTVx .. => 0xF015
  | .ldSTVx .. => 0xF018
  | .addI .. => 0xF01E
  | .ldF .. => 0xF029
  | .ldB .. => 0xF033
  | .stRegs .. => 0xF055
  | .ldRegs .. => 0xF065

/-- What the decoder reads from an instruction whose bits are `w`, numbered as the opcode table numbers
them: the one 16-bit word is laid out big-endian and given to the decoder. -/
def decodeTableWord (nbits w : Nat) : Option Instr :=
  let word := BitVec.ofNat 16 (w % 2 ^ nbits)
  match decodeBytes [highByte word, lowByte word] with
  | .ok (i, _) => some i
  | .error _ => none

end Sys2Proof
end

