-- ==== Sys2Proof/Config.lean ====
section
/-! DEFINITION. What the spec leaves to the model: the parameters FONT and FONT_WRITE and the free random byte. -/

namespace Sys2Proof

/-- The parameter FONT_WRITE: what a data write into addresses 0..79 does (00_scope.md R9,
20_memory.md R59, 92_eei_decisions.md D12). -/
inductive FontWrite where
  /-- the write takes effect -/
  | allow
  /-- the write raises AddressFault(FONT, a) -/
  | fault
deriving DecidableEq, Repr

/-- The two named parameters of 00_scope.md R9. A machine carries them unchanged in the field `cfg`
of its state, so a statement about every state holds for every FONT and both values of FONT_WRITE
(log entries 1 and 2). -/
structure Config where
  /-- FONT: 16 glyphs of 5 bytes, digit `d` at bytes `5*d .. 5*d+4` (20_memory.md R52). -/
  font      : Vector Byte 80
  /-- FONT_WRITE -/
  fontWrite : FontWrite
deriving DecidableEq, Repr

/-- FREE VALUE. The random byte of the n-th draw (42_alu.md R142, 92_eei_decisions.md D10): any value
0..255, chosen by the environment. It has no body, so nothing can be proved of it (log entry 3). -/
opaque Config.rand8 : Nat → Byte

end Sys2Proof
end

