-- ==== Sys2Proof/Machine/Params.lean ====
section
/-! DEFINITION. The default parameters of 00_scope.md R9 and the reset contents of memory (10_state.md R40). -/

namespace Sys2Proof.Machine

/-- The default FONT of 92_eei_decisions.md D11: glyphs 0 to F, five bytes each, top row first. The
spec marks the bytes as general knowledge, not in its source. PRESUMED, unsafe, log entry 1. -/
def defaultFont : Vector Byte 80 :=
  #v[0xF0, 0x90, 0x90, 0x90, 0xF0,  0x20, 0x60, 0x20, 0x20, 0x70,
     0xF0, 0x10, 0xF0, 0x80, 0xF0,  0xF0, 0x10, 0xF0, 0x10, 0xF0,
     0x90, 0x90, 0xF0, 0x10, 0x10,  0xF0, 0x80, 0xF0, 0x10, 0xF0,
     0xF0, 0x80, 0xF0, 0x90, 0xF0,  0xF0, 0x10, 0x20, 0x40, 0x40,
     0xF0, 0x90, 0xF0, 0x90, 0xF0,  0xF0, 0x90, 0xF0, 0x10, 0xF0,
     0xF0, 0x90, 0xF0, 0x90, 0x90,  0xE0, 0x90, 0xE0, 0x90, 0xE0,
     0xF0, 0x80, 0x80, 0x80, 0xF0,  0xE0, 0x90, 0x90, 0x90, 0xE0,
     0xF0, 0x80, 0xF0, 0x80, 0xF0,  0xF0, 0x80, 0xF0, 0x80, 0x80]

/-- The parameters the spec takes by default (00_scope.md R9): the font above and FONT_WRITE = fault. -/
def defaultConfig : Config := { font := defaultFont, fontWrite := .fault }

/-- The contents of memory after initialization (10_state.md R40, 70_reset_and_hazards.md R240): FONT
at 0..79 and 0 above. This is what an address reads as while memory lists no byte for it. -/
def resetByte (cfg : Config) (a : Nat) : Byte :=
  if h : a < 80 then cfg.font[a] else 0

end Sys2Proof.Machine
end

