-- ==== Sys2Proof/Machine/State.lean ====
section
/-! DEFINITION. The state of the block (10_state.md), the faults and events of 60_exceptions.md R211, and the state after reset. -/

namespace Sys2Proof.Machine

/-- The fatal faults of 60_exceptions.md R211, each with the info it records. A fault is RAISED by the
shared operation `raise`, which answers a next state that records it in the field `fault` (R212). As the
payload of `Host.Outcome.fault` a value of this type is the RECORDED fault that `step` reports again on
a block that already has one (40_step.md R100: such a block has no step); no other definition answers
`Host.Outcome.fault`. Every such stop is the spec's own and safe: the model does not go on where the
hardware would (log entries 5 and 6). -/
inductive Fault where
  /-- AddressFault(FETCH, a), code 1: raised by the fetch of a step when pc > 4094; a = pc (40_step.md R91). Safe. -/
  | fetchAddress (a : Nat)
  /-- AddressFault(DATA, a), code 2: raised by DRW, LD B, LD [I] and LD Vx,[I] when a data address is above 4095;
  a = the lowest failing address (20_memory.md R58). Safe. -/
  | dataAddress (a : Nat)
  /-- AddressFault(KEY, k), code 3: raised by SKP and SKNP when x[X] > 15; k = x[X] (45_input_timers.md R190, R191). Safe. -/
  | keyNumber (k : Nat)
  /-- AddressFault(FONT, a), code 4: raised by LD B and LD [I] on a write below 80 when FONT_WRITE = fault; a = I
  (20_memory.md R59). Safe. -/
  | fontWrite (a : Nat)
  /-- StackOverflow(p), code 5: raised by CALL with sp = 16; p = pc of the CALL (41_control_flow.md R113). Safe. -/
  | stackOverflow (p : Nat)
  /-- StackUnderflow(p), code 6: raised by RET with sp = 0; p = pc of the RET (41_control_flow.md R111). Safe. -/
  | stackUnderflow (p : Nat)
deriving DecidableEq, Repr

/-- Why an instruction has no meaning. Nothing of this model raises it: every instruction of the opcode
table has its meaning, and an unclassified word has the effect of 40_step.md R95. -/
inductive Refusal where
  /-- an arm of `exec` that has no meaning yet, by mnemonic; raised by no arm. Safe. -/
  | notModelled (mnemonic : String)
deriving DecidableEq, Repr

/-- What a step reports to the host (40_step.md R99). -/
inductive Event where
  /-- UnknownOpcode(w): the raw word of an unclassified instruction (40_step.md R95) -/
  | unknownOpcode (w : Word)
  /-- Tone: the sound timer went from 1 to 0 (40_step.md R97) -/
  | tone
  /-- Fault(code, info): the step raised a fault (60_exceptions.md R212) -/
  | fault (f : Fault)
deriving DecidableEq, Repr

/-- Memory: the bytes that differ from their reset contents, as (address, byte), in ONE canonical form
(`Memory.wf`). An address that is not listed reads as `resetByte`. -/
abbrev Memory := List Host.Cell

/-- The block's state: the tuple of 10_state.md R20 under the spec's names, then three fields of the
model's own (log entries 1 to 4). Plain data throughout. -/
structure State where
  /-- 4096 bytes of code and data (20_memory.md R50) -/
  mem    : Memory
  /-- the general registers; x[15] is the flag (10_state.md R22, R23) -/
  x      : Vector Byte 16
  /-- the index register (10_state.md R29) -/
  I      : Word
  /-- the program counter (10_state.md R26) -/
  pc     : Word
  /-- the call stack (10_state.md R30) -/
  stack  : Vector Word 16
  /-- the number of call-stack entries in use, 0..16 (10_state.md R30) -/
  sp     : Fin 17
  /-- the delay timer (10_state.md R32) -/
  DT     : Byte
  /-- the sound timer (10_state.md R33) -/
  ST     : Byte
  /-- the frame buffer, cell k as bit k (10_state.md R34) -/
  fb     : FrameBuffer
  /-- the key cells, pressed when non-zero (10_state.md R35) -/
  keys   : Vector Byte 16
  /-- the redraw flag (10_state.md R36) -/
  redraw : Bool
  /-- the recorded fault, none while the block runs (10_state.md R38) -/
  fault  : Option Fault
  /-- the model's own: the events of the latest step, in order (40_step.md R99) -/
  events : List Event
  /-- the model's own: how many random bytes have been drawn (10_state.md R21) -/
  draws  : Nat
  /-- the model's own: the parameters FONT and FONT_WRITE (00_scope.md R9) -/
  cfg    : Config
deriving DecidableEq, Repr

/-- Initialize (70_reset_and_hazards.md R240; values 10_state.md R40): everything cleared, the font in
memory, pc at 0x200. -/
def State.initial (cfg : Config) : State where
  mem    := []
  x      := Vector.replicate 16 0
  I      := 0
  pc     := 0x200
  stack  := Vector.replicate 16 0
  sp     := 0
  DT     := 0
  ST     := 0
  fb     := 0
  keys   := Vector.replicate 16 0
  redraw := false
  fault  := none
  events := []
  draws  := 0
  cfg    := cfg

/-- The block right after reset, which is initialization (R240), with the spec's default parameters. -/
def State.reset : State := State.initial defaultConfig

end Sys2Proof.Machine
end

