-- ==== Sys2Proof/Machine/Ops.lean ====
section
/-! DEFINITION. The named operations over memory, registers, stack, timers, events and faults that every meaning is written with. -/

namespace Sys2Proof.Machine

/-- What a meaning or a step answers. -/
abbrev Result := Host.Outcome State Fault Refusal

/-! ### Memory (20_memory.md) -/

/-- The byte listed for an address, if one is. -/
def Memory.lookup (m : Memory) (a : Nat) : Option Byte :=
  match m with
  | [] => none
  | c :: m => if c.1 = a then some c.2 else Memory.lookup m a

/-- List byte `v` for address `a`, at its place in the order. -/
def Memory.insert (m : Memory) (a : Nat) (v : Byte) : Memory :=
  match m with
  | [] => [(a, v)]
  | c :: m =>
    if a < c.1 then (a, v) :: c :: m
    else if a = c.1 then (a, v) :: m
    else c :: Memory.insert m a v

/-- List no byte for address `a`. -/
def Memory.erase (m : Memory) (a : Nat) : Memory := m.filter fun c => c.1 ≠ a

/-- The byte at an address. -/
def Memory.load (cfg : Config) (m : Memory) (a : Nat) : Byte :=
  (m.lookup a).getD (resetByte cfg a)

/-- Memory with byte `v` at address `a`, in canonical form: a byte equal to the reset contents is not listed. -/
def Memory.store (cfg : Config) (m : Memory) (a : Nat) (v : Byte) : Memory :=
  if v = resetByte cfg a then m.erase a else m.insert a v

/-- The canonical form: addresses strictly rising, all of them in 0..4095, no entry equal to what an
unlisted address reads as. -/
abbrev Memory.wf (cfg : Config) (m : Memory) : Prop :=
  m.Pairwise (fun c d => c.1 < d.1) ∧ ∀ c ∈ m, c.1 < 4096 ∧ c.2 ≠ resetByte cfg c.1

/-- `mem[a]`, for an address already checked. -/
def State.loadByte (s : State) (a : Nat) : Byte := Memory.load s.cfg s.mem a

/-- `mem[a] <- v`, for an address already checked. -/
def State.storeByte (s : State) (a : Nat) (v : Byte) : State :=
  { s with mem := Memory.store s.cfg s.mem a v }

/-- What a data access does at its addresses. -/
inductive AccessKind where
  | read
  | write
deriving DecidableEq, Repr

/-- CheckRange(lo, hi, kind) (20_memory.md R58): the fault the range raises, if any, the bound of the
address space first and the font policy second. Addresses are unbounded naturals. -/
def checkRange (s : State) (lo hi : Nat) (kind : AccessKind) : Option Fault :=
  if 4095 < hi then some (.dataAddress (max lo 4096))
  else if kind = .write ∧ lo < 80 ∧ s.cfg.fontWrite = .fault then some (.fontWrite lo)
  else none

/-- MemRead(a, 1) (20_memory.md R55). -/
def memRead (s : State) (a : Nat) : Except Fault Byte :=
  if 4095 < a then .error (.dataAddress a) else .ok (s.loadByte a)

/-- MemWrite(a, 1, v) (20_memory.md R56). -/
def memWrite (s : State) (a : Nat) (v : Byte) : Except Fault State :=
  if 4095 < a then .error (.dataAddress a)
  else if a < 80 ∧ s.cfg.fontWrite = .fault then .error (.fontWrite a)
  else .ok (s.storeByte a v)

/-! ### Registers (10_state.md R22, R23, R29) -/

/-- `x[r]` -/
def State.reg (s : State) (r : RegIx) : Byte := s.x[r.toNat]

/-- `x[r] <- v` -/
def State.setReg (s : State) (r : RegIx) (v : Byte) : State :=
  { s with x := s.x.set r.toNat v }

/-- `I <- v` -/
def State.setI (s : State) (v : Word) : State := { s with I := v }

/-- `for k in 0..n-1: mem[base + k] <- x[k]`, for checked addresses (43_index_memory.md R165). -/
def State.storeRegs (s : State) (base : Nat) : Nat → State
  | 0 => s
  | n + 1 => (s.storeRegs base n).storeByte (base + n) (s.reg (BitVec.ofNat 4 n))

/-- `for k in 0..n-1: x[k] <- mem[base + k]`, for checked addresses (43_index_memory.md R166). -/
def State.loadRegs (s : State) (base : Nat) : Nat → State
  | 0 => s
  | n + 1 => (s.loadRegs base n).setReg (BitVec.ofNat 4 n) (s.loadByte (base + n))

/-! ### Program counter (40_step.md R94, 41_control_flow.md R110) -/

/-- `pc <- target` -/
def State.setPc (s : State) (target : Word) : State := { s with pc := target }

/-- `pc <- pc + n`, 16-bit (10_state.md R28) -/
def State.advance (s : State) (n : Word) : State := s.setPc (s.pc + n)

/-- Skip(c): advance 4 when the condition holds, else 2 (41_control_flow.md R110) -/
def State.skip (s : State) (c : Bool) : State := s.advance (if c then 4 else 2)

/-! ### Call stack (10_state.md R30, R31) -/

/-- `stack[sp] <- v; sp <- sp + 1`, for sp < 16 -/
def State.push (s : State) (v : Word) (h : s.sp.val < 16) : State :=
  { s with stack := s.stack.set s.sp.val v, sp := ⟨s.sp.val + 1, by omega⟩ }

/-- `stack[sp - 1]`, the entry a RET pops; meaningful for sp > 0 -/
def State.top (s : State) : Word := s.stack[s.sp.val - 1]'(by omega)

/-- `sp <- sp - 1`, for sp > 0; the popped entry is not cleared -/
def State.pop (s : State) : State := { s with sp := ⟨s.sp.val - 1, by omega⟩ }

/-! ### Timers, frame buffer, keys -/

/-- `DT <- v` -/
def State.setDT (s : State) (v : Byte) : State := { s with DT := v }

/-- `ST <- v` -/
def State.setST (s : State) (v : Byte) : State := { s with ST := v }

/-- `fb <- f` and `redraw <- true` (10_state.md R36) -/
def State.paint (s : State) (f : FrameBuffer) : State := { s with fb := f, redraw := true }

/-- Cell `k` of a frame buffer is 1. -/
def cell (f : FrameBuffer) (k : Nat) : Bool := f.getLsbD k

/-- `fb[k] <- fb[k] XOR 1` -/
def toggle (f : FrameBuffer) (k : Nat) : FrameBuffer := f ^^^ BitVec.twoPow 2048 k

/-- The cell of pixel (px, py) (10_state.md R34). -/
def pixelIndex (px py : Nat) : Nat := py * 64 + px

/-- Key `k` is pressed: its cell is non-zero (10_state.md R35). -/
def State.keyPressed (s : State) (k : BitVec 4) : Bool := s.keys[k.toNat] != 0

/-! ### Events and faults -/

/-- `emit E` (40_step.md R99) -/
def State.emit (s : State) (e : Event) : State := { s with events := s.events ++ [e] }

/-- A step begins with no event emitted. -/
def State.clearEvents (s : State) : State := { s with events := [] }

/-- The next draw of the random source is a fresh one (10_state.md R21). -/
def State.nextDraw (s : State) : State := { s with draws := s.draws + 1 }

/-- The state a fault leaves: the state before the step with only `fault` changed, and the event
Fault(code, info) (60_exceptions.md R212, R213). -/
def State.withFault (s : State) (f : Fault) : State := { s with fault := some f }.emit (.fault f)

/-- `raise F(info)`: TAKING A FAULT, the one way a fault is taken (60_exceptions.md R212). It ends the
step in a next state; every caller raises before its first write, so nothing else has changed. There is
no return from a fault (R218). -/
def raise (f : Fault) (s : State) : Result := .next (s.withFault f)

/-- The code of a fault (60_exceptions.md R211). -/
def Fault.code : Fault → Nat
  | .fetchAddress _ => 1
  | .dataAddress _ => 2
  | .keyNumber _ => 3
  | .fontWrite _ => 4
  | .stackOverflow _ => 5
  | .stackUnderflow _ => 6

/-- The info a fault records (60_exceptions.md R211). -/
def Fault.info : Fault → Nat
  | .fetchAddress a | .dataAddress a | .keyNumber a | .fontWrite a | .stackOverflow a | .stackUnderflow a => a

/-- The code of a report or a fault (60_exceptions.md R211); Tone has none. -/
def Event.code : Event → Option Nat
  | .unknownOpcode _ => some 16
  | .tone => none
  | .fault f => some f.code

/-! ### The parts of a step (40_step.md) -/

/-- Fetch (R90, R91): the big-endian word at pc, or none when pc + 1 is past 4095. It reads memory
directly and is subject to no font policy. -/
def fetch (s : State) : Option (BitVec 8 × BitVec 8) :=
  if s.pc.toNat + 1 ≤ 4095 then some (s.loadByte s.pc.toNat, s.loadByte (s.pc.toNat + 1)) else none

/-- What an unclassified word does before the tick (R95). -/
def unclassified (w : Word) (s : State) : Result := .next ((s.emit (.unknownOpcode w)).advance 2)

/-- The delay-timer tick (R96). -/
def State.tickDelay (s : State) : State := if s.DT = 0 then s else s.setDT (s.DT - 1)

/-- The sound-timer tick and the tone event (R97). -/
def State.tickSound (s : State) : State :=
  if s.ST = 0 then s
  else if s.ST = 1 then (s.emit .tone).setST 0
  else s.setST (s.ST - 1)

/-- The timer tick: the delay timer first, then the sound timer (R98). -/
def State.tick (s : State) : State := s.tickDelay.tickSound

/-- After dispatch: a step that did not raise a fault ticks the timers, one that did ends at once (R98, R212). -/
def afterDispatch : Result → Result
  | .next t => .next (if t.fault = none then t.tick else t)
  | .fault r => .fault r
  | .refused r => .refused r

/-- Store the bytes `hi`, `lo` where the next step fetches, when that lies in memory. -/
def State.placeWord (s : State) (hi lo : Byte) : State :=
  if s.pc.toNat + 1 ≤ 4095 then (s.storeByte s.pc.toNat hi).storeByte (s.pc.toNat + 1) lo else s

end Sys2Proof.Machine
end

