-- ==== Sys2Proof/Machine/Flags.lean ====
section
/-! DEFINITION. The flag computations of the ALU (42_alu.md R130, R137 to R141) and the order in which flag and result are written. -/

namespace Sys2Proof.Machine

/-- A flag as the byte x[15] receives, 1 or 0. -/
def flagByte (b : Bool) : Byte := if b then 1 else 0

/-- Carry out of bit 7: the exact sum exceeds 255 (R137). -/
def carryOut (a b : Byte) : Bool := 255 < a.toNat + b.toNat

/-- No borrow in `a - b`: `a >= b`, unsigned (R138, R140). -/
def noBorrow (a b : Byte) : Bool := b.toNat ≤ a.toNat

/-- The bit a right shift moves out (R139). -/
def lowBit (a : Byte) : Bool := a.getLsbD 0

/-- The bit a left shift moves out (R141). -/
def highBit (a : Byte) : Bool := a.getLsbD 7

/-- `x[15] <- flag` and THEN `x[X] <- result`, from values read beforehand: with X = 15 the result stays
(R130, 92_eei_decisions.md D9; DESIGN CHOICE of the spec, unsafe, log entry 7). -/
def State.setFlagThenReg (s : State) (flag : Bool) (x : RegIx) (result : Byte) : State :=
  (s.setReg VF (flagByte flag)).setReg x result

end Sys2Proof.Machine
end

