-- ==== Sys2Proof/Machine/Alu.lean ====
section
/-! DEFINITION. Meanings of the register and ALU instructions (42_alu.md R130 to R142). -/

namespace Sys2Proof.Machine

/-- LD Vx, NN (R131) -/
def execLdImm (x : RegIx) (nn : Byte) (s : State) : Result := .next ((s.setReg x nn).advance 2)

/-- ADD Vx, NN (R132): no flag. -/
def execAddImm (x : RegIx) (nn : Byte) (s : State) : Result := .next ((s.setReg x (s.reg x + nn)).advance 2)

/-- LD Vx, Vy (R133) -/
def execLdReg (x y : RegIx) (s : State) : Result := .next ((s.setReg x (s.reg y)).advance 2)

/-- OR Vx, Vy (R134): no flag. -/
def execOrReg (x y : RegIx) (s : State) : Result := .next ((s.setReg x (s.reg x ||| s.reg y)).advance 2)

/-- AND Vx, Vy (R135): no flag. -/
def execAndReg (x y : RegIx) (s : State) : Result := .next ((s.setReg x (s.reg x &&& s.reg y)).advance 2)

/-- XOR Vx, Vy (R136): no flag. -/
def execXorReg (x y : RegIx) (s : State) : Result := .next ((s.setReg x (s.reg x ^^^ s.reg y)).advance 2)

/-- ADD Vx, Vy (R137) -/
def execAddReg (x y : RegIx) (s : State) : Result :=
  let a := s.reg x
  let b := s.reg y
  .next ((s.setFlagThenReg (carryOut a b) x (a + b)).advance 2)

/-- SUB Vx, Vy (R138) -/
def execSubReg (x y : RegIx) (s : State) : Result :=
  let a := s.reg x
  let b := s.reg y
  .next ((s.setFlagThenReg (noBorrow a b) x (a - b)).advance 2)

/-- SHR Vx (R139): it shifts x[X]; Y is ignored. -/
def execShr (x : RegIx) (s : State) : Result :=
  let a := s.reg x
  .next ((s.setFlagThenReg (lowBit a) x (a >>> 1)).advance 2)

/-- SUBN Vx, Vy (R140) -/
def execSubnReg (x y : RegIx) (s : State) : Result :=
  let a := s.reg x
  let b := s.reg y
  .next ((s.setFlagThenReg (noBorrow b a) x (b - a)).advance 2)

/-- SHL Vx (R141): it shifts x[X]; Y is ignored. -/
def execShl (x : RegIx) (s : State) : Result :=
  let a := s.reg x
  .next ((s.setFlagThenReg (highBit a) x (a <<< 1)).advance 2)

/-- RND Vx, NN for a given draw `rand8` (R142). -/
def rndWith (rand8 : Byte) (x : RegIx) (nn : Byte) (s : State) : State := (s.setReg x (rand8 &&& nn)).advance 2

/-- RND Vx, NN (R142): the draw is the free value of the counter `draws`, which advances, so that every
RND meets a fresh byte (log entry 3). -/
def execRnd (x : RegIx) (nn : Byte) (s : State) : Result :=
  .next (rndWith (Config.rand8 s.draws) x nn s).nextDraw

end Sys2Proof.Machine
end

