-- ==== Sys2Proof/Machine/Operands.lean ====
section
/-! DEFINITION. The operand forms (30_encoding.md R72): addresses, digits, glyphs, keys, sprite pixels. -/

namespace Sys2Proof.Machine

/-- zext_16(NNN) (00_scope.md R11, 30_encoding.md R72) -/
def zext16 (nnn : Addr12) : Word := nnn.setWidth 16

/-- The effective address I + k, an unbounded natural (20_memory.md R58, 43_index_memory.md R160). -/
def effectiveAddr (s : State) (k : Nat) : Nat := s.I.toNat + k

/-- The address of the glyph of a register's value, the whole register times 5 (43_index_memory.md R163). -/
def glyphAddr (v : Byte) : Word := BitVec.ofNat 16 (v.toNat * 5)

/-- The decimal digits of a byte (43_index_memory.md R164). -/
def hundreds (v : Byte) : Byte := BitVec.ofNat 8 (v.toNat / 100)
/-- `(v div 10) mod 10` -/
def tens (v : Byte) : Byte := BitVec.ofNat 8 (v.toNat / 10 % 10)
/-- `v mod 10` -/
def ones (v : Byte) : Byte := BitVec.ofNat 8 (v.toNat % 10)

/-- The key a register names: its whole value, which must be at most 15 (45_input_timers.md R190, R191). -/
def keyOperand (s : State) (x : RegIx) : Except Fault (BitVec 4) :=
  if 15 < (s.reg x).toNat then .error (.keyNumber (s.reg x).toNat)
  else .ok ((s.reg x).setWidth 4)

/-- The keys in scan order, 0 to 15. -/
def keyNumbers : List (BitVec 4) := (List.range 16).map (BitVec.ofNat 4)

/-- The least pressed key, if any is pressed (45_input_timers.md R193). -/
def lowestPressed (s : State) : Option (BitVec 4) := keyNumbers.find? s.keyPressed

/-- The bytes of memory at `a`, `a + 1`, ..., `a + n - 1`. -/
def State.loadBytes (s : State) (a n : Nat) : List Byte := (List.range n).map fun r => s.loadByte (a + r)

/-- The cells that row `r` of a sprite at (cx, cy) toggles: column c for each bit 7 - c of the row that is 1,
with both coordinates wrapped (44_display.md R181). -/
def rowCells (cx cy r : Nat) (row : Byte) : List Nat :=
  ((List.range 8).filter fun c => row.getLsbD (7 - c)).map fun c => pixelIndex ((cx + c) % 64) ((cy + r) % 32)

/-- The cells a sprite toggles, row `r` first, in the order the pseudocode of 44_display.md R181 visits them. -/
def spriteCells (cx cy r : Nat) : List Byte → List Nat
  | [] => []
  | row :: rows => rowCells cx cy r row ++ spriteCells cx cy (r + 1) rows

/-- One pixel of a draw: `if fb[k] = 1 then hit <- 1; fb[k] <- fb[k] XOR 1` (44_display.md R181). -/
def plot (st : FrameBuffer × Bool) (k : Nat) : FrameBuffer × Bool := (toggle st.1 k, st.2 || cell st.1 k)

/-- XOR a sprite into a frame buffer; the flag says whether any pixel went from 1 to 0 (44_display.md R181). -/
def blit (f : FrameBuffer) (cx cy : Nat) (rows : List Byte) : FrameBuffer × Bool :=
  (spriteCells cx cy 0 rows).foldl plot (f, false)

end Sys2Proof.Machine
end

