-- ==== Sys2Proof/Machine/ControlFlow.lean ====
section
/-! DEFINITION. Meanings of the control-transfer instructions (41_control_flow.md R110 to R118). -/

namespace Sys2Proof.Machine

/-- RET (R111) -/
def execRet (s : State) : Result :=
  if s.sp.val = 0 then raise (.stackUnderflow s.pc.toNat) s else .next (s.pop.setPc (s.top + 2))

/-- JP NNN (R112) -/
def execJp (nnn : Addr12) (s : State) : Result := .next (s.setPc (zext16 nnn))

/-- CALL NNN (R113): it pushes its own address. -/
def execCall (nnn : Addr12) (s : State) : Result :=
  if h : s.sp.val < 16 then .next ((s.push s.pc h).setPc (zext16 nnn)) else raise (.stackOverflow s.pc.toNat) s

/-- SE Vx, NN (R114) -/
def execSeImm (x : RegIx) (nn : Byte) (s : State) : Result := .next (s.skip (s.reg x = nn))

/-- SNE Vx, NN (R115) -/
def execSneImm (x : RegIx) (nn : Byte) (s : State) : Result := .next (s.skip (s.reg x ≠ nn))

/-- SE Vx, Vy (R116) -/
def execSeReg (x y : RegIx) (s : State) : Result := .next (s.skip (s.reg x = s.reg y))

/-- SNE Vx, Vy (R117) -/
def execSneReg (x y : RegIx) (s : State) : Result := .next (s.skip (s.reg x ≠ s.reg y))

/-- JP V0, NNN (R118): the register is always x[0]. -/
def execJpV0 (nnn : Addr12) (s : State) : Result := .next (s.setPc (zext16 nnn + (s.reg 0).setWidth 16))

end Sys2Proof.Machine
end

