-- ==== Sys2Proof/Machine/Display.lean ====
section
/-! DEFINITION. Meanings of the display instructions (44_display.md R180, R181). -/

namespace Sys2Proof.Machine

/-- CLS (R180): every cell 0, redraw set whether or not a cell changed. -/
def execCls (s : State) : Result := .next ((s.paint 0).advance 2)

/-- The range check of DRW: no byte is read, and none checked, when N = 0 (R181, 20_memory.md R58). -/
def checkSprite (s : State) (n : Nat) : Option Fault :=
  if n = 0 then none else checkRange s (effectiveAddr s 0) (effectiveAddr s (n - 1)) .read

/-- The frame buffer and the collision of a draw of `n` rows at (x[X], x[Y]) (R181). -/
def drawn (s : State) (x y : RegIx) (n : Nat) : FrameBuffer × Bool :=
  blit s.fb (s.reg x).toNat (s.reg y).toNat (s.loadBytes (effectiveAddr s 0) n)

/-- DRW Vx, Vy, N (R181): the coordinates are read before x[15] is written. -/
def execDrw (x y : RegIx) (n : BitVec 4) (s : State) : Result :=
  match checkSprite s n.toNat with
  | some f => raise f s
  | none =>
    let d := drawn s x y n.toNat
    .next (((s.paint d.1).setReg VF (flagByte d.2)).advance 2)

end Sys2Proof.Machine
end

