-- ==== Sys2Proof/Machine/IndexMemory.lean ====
section
/-! DEFINITION. Meanings of the index-register and memory instructions (43_index_memory.md R160 to R166). -/

namespace Sys2Proof.Machine

/-- LD I, NNN (R161) -/
def execLdI (nnn : Addr12) (s : State) : Result := .next ((s.setI (zext16 nnn)).advance 2)

/-- ADD I, Vx (R162): 16-bit, no flag. -/
def execAddI (x : RegIx) (s : State) : Result := .next ((s.setI (s.I + (s.reg x).setWidth 16)).advance 2)

/-- LD F, Vx (R163): the whole register times 5. -/
def execLdF (x : RegIx) (s : State) : Result := .next ((s.setI (glyphAddr (s.reg x))).advance 2)

/-- The three digit stores of LD B, Vx, in the order of R164. -/
def State.storeBcd (s : State) (v : Byte) : State :=
  ((s.storeByte (effectiveAddr s 0) (hundreds v)).storeByte (effectiveAddr s 1) (tens v)).storeByte
    (effectiveAddr s 2) (ones v)

/-- LD B, Vx (R164) -/
def execLdB (x : RegIx) (s : State) : Result :=
  match checkRange s (effectiveAddr s 0) (effectiveAddr s 2) .write with
  | some f => raise f s
  | none => .next ((s.storeBcd (s.reg x)).advance 2)

/-- `I <- (I + X + 1) mod 65536` (R165, R166) -/
def State.bumpI (s : State) (x : RegIx) : State := s.setI (s.I + x.setWidth 16 + 1)

/-- LD [I], Vx (R165) -/
def execStRegs (x : RegIx) (s : State) : Result :=
  match checkRange s (effectiveAddr s 0) (effectiveAddr s x.toNat) .write with
  | some f => raise f s
  | none => .next (((s.storeRegs (effectiveAddr s 0) (x.toNat + 1)).bumpI x).advance 2)

/-- LD Vx, [I] (R166) -/
def execLdRegs (x : RegIx) (s : State) : Result :=
  match checkRange s (effectiveAddr s 0) (effectiveAddr s x.toNat) .read with
  | some f => raise f s
  | none => .next (((s.loadRegs (effectiveAddr s 0) (x.toNat + 1)).bumpI x).advance 2)

end Sys2Proof.Machine
end

