-- ==== Sys2Proof/Machine/InputTimers.lean ====
section
/-! DEFINITION. Meanings of the key-test, key-wait and timer instructions (45_input_timers.md R190 to R195). -/

namespace Sys2Proof.Machine

/-- SKP Vx (R190) -/
def execSkp (x : RegIx) (s : State) : Result :=
  match keyOperand s x with
  | .error f => raise f s
  | .ok k => .next (s.skip (s.keyPressed k))

/-- SKNP Vx (R191) -/
def execSknp (x : RegIx) (s : State) : Result :=
  match keyOperand s x with
  | .error f => raise f s
  | .ok k => .next (s.skip (!s.keyPressed k))

/-- LD Vx, DT (R192): the value before this step's tick. -/
def execLdVxDT (x : RegIx) (s : State) : Result := .next ((s.setReg x s.DT).advance 2)

/-- LD Vx, K (R193): the least pressed key, or no advance while none is pressed. -/
def execLdVxK (x : RegIx) (s : State) : Result :=
  match lowestPressed s with
  | some k => .next ((s.setReg x (k.setWidth 8)).advance 2)
  | none => .next s

/-- LD DT, Vx (R194): the tick of the same step follows. -/
def execLdDTVx (x : RegIx) (s : State) : Result := .next ((s.setDT (s.reg x)).advance 2)

/-- LD ST, Vx (R195): the tick of the same step follows. -/
def execLdSTVx (x : RegIx) (s : State) : Result := .next ((s.setST (s.reg x)).advance 2)

end Sys2Proof.Machine
end

