-- ==== Sys2Proof/Machine/Step.lean ====
section
/-! DEFINITION. The step (40_step.md R98): fetch, classify, dispatch, timer tick. It only calls what other files define. -/

namespace Sys2Proof.Machine

/-- Classify and dispatch the word of two fetched bytes (R92, R93, R95). -/
def dispatchBytes (hi lo : Byte) (s : State) : Result :=
  match decode (wordOfBytes hi lo) with
  | .ok i => exec i s
  | .error _ => unclassified (wordOfBytes hi lo) s

/-- One step of a running block, which begins with no event emitted (R98, R99). -/
def runStep (s : State) : Result :=
  match fetch s with
  | none => raise (.fetchAddress s.pc.toNat) s
  | some (hi, lo) => afterDispatch (dispatchBytes hi lo s)

/-- One call of `step()`: a block with a recorded fault has no step and reports the fault again (R100). -/
def step (s : State) : Host.Outcome State Fault Refusal :=
  match s.fault with
  | some f => .fault f
  | none => runStep s.clearEvents

/-- `s` with the instruction word `w` (its low `nbits` bits, the rest 0) stored at `pc`, where `step`
fetches, big-endian. At a pc above 4094, where no word can be fetched, nothing is stored. -/
def State.withFetchWord (s : State) (nbits w : Nat) : State :=
  let word := BitVec.ofNat 16 (w % 2 ^ nbits)
  s.placeWord (highByte word) (lowByte word)

end Sys2Proof.Machine
end

