-- ==== Sys2Proof/Machine/HostPort.lean ====
section
/-! DEFINITION. What the host does between two steps (60_exceptions.md R230, 70_reset_and_hazards.md R244); none of it is a step. -/

namespace Sys2Proof.Machine

/-- What the loader answers (70_reset_and_hazards.md R244). -/
inductive LoadResult where
  /-- the program stands at 512 onward -/
  | loaded (s : State)
  /-- ProgramTooLarge(L), code 32: no byte written (60_exceptions.md R211) -/
  | programTooLarge (length : Nat)
deriving DecidableEq, Repr

/-- Bytes written at `a`, `a + 1`, ... in order. -/
def State.storeBytes (s : State) (a : Nat) : List Byte → State
  | [] => s
  | v :: vs => (s.storeByte a v).storeBytes (a + 1) vs

/-- Load(bytes): it fails before any write when the program is longer than 3584 bytes (R244). -/
def load (bytes : List Byte) (s : State) : LoadResult :=
  if 3584 < bytes.length then .programTooLarge bytes.length else .loaded (s.storeBytes 512 bytes)

/-- The code of the loader's failure (60_exceptions.md R211). -/
def LoadResult.code : LoadResult → Option Nat
  | .loaded _ => none
  | .programTooLarge _ => some 32

/-- The input source sets a key cell to 1 or 0 (60_exceptions.md R230). -/
def setKey (k : BitVec 4) (pressed : Bool) (s : State) : State :=
  { s with keys := s.keys.set k.toNat (if pressed then 1 else 0) }

/-- The renderer reads the frame buffer and the redraw flag (60_exceptions.md R230). -/
def readFrame (s : State) : FrameBuffer × Bool := (s.fb, s.redraw)

/-- Pixel (px, py) of a frame, as the renderer reads it (10_state.md R34). -/
def pixel (f : FrameBuffer) (px py : Nat) : Bool := cell f (pixelIndex px py)

/-- The renderer clears the redraw flag after it consumed a frame (60_exceptions.md R230, R231). -/
def clearRedraw (s : State) : State := { s with redraw := false }

/-- The tone sink's view of a step: whether the latest step emitted Tone (60_exceptions.md R224). -/
def toneEmitted (s : State) : Bool := s.events.contains .tone

end Sys2Proof.Machine
end

