-- ==== Sys2Proof/WellFormed.lean ====
section
/-! DEFINITION. What is well formed: an instruction's operands, a canonical instruction word, a program image. -/

namespace Sys2Proof

/-- The operands lie in the ranges of 30_encoding.md R72. Every operand is a bit vector of its field's
width, so an ill-formed `Instr` cannot be built and this holds of every term: the ranges are written
out here for the reader, and `Laws.wellFormed_all` says that nothing is shut out. -/
abbrev Instr.WellFormed : Instr → Prop
  | .cls | .ret => True
  | .jp nnn | .call nnn | .ldI nnn | .jpV0 nnn => nnn.toNat ≤ 4095
  | .seImm x nn | .sneImm x nn | .ldImm x nn | .addImm x nn | .rnd x nn => x.toNat ≤ 15 ∧ nn.toNat ≤ 255
  | .seReg x y | .sneReg x y | .ldReg x y | .orReg x y | .andReg x y | .xorReg x y | .addReg x y
  | .subReg x y | .subnReg x y => x.toNat ≤ 15 ∧ y.toNat ≤ 15
  | .drw x y n => x.toNat ≤ 15 ∧ y.toNat ≤ 15 ∧ n.toNat ≤ 15
  | .shr x | .shl x | .skp x | .sknp x | .ldVxDT x | .ldVxK x | .ldDTVx x | .ldSTVx x | .addI x | .ldF x
  | .ldB x | .stRegs x | .ldRegs x => x.toNat ≤ 15

/-- The bits of a word that neither select its handler nor feed it (30_encoding.md R73), by family:
11..4 in family 0, 3..0 in families 5 and 9, 7..4 of 8XY6 and 8XYE. -/
def ignoredBits (w : Word) : Word :=
  match (w.extractLsb' 12 4).toNat with
  | 0x0 => 0x0FF0
  | 0x5 => 0x000F
  | 0x9 => 0x000F
  | 0x8 => if w.extractLsb' 0 4 = 0x6#4 ∨ w.extractLsb' 0 4 = 0xE#4 then 0x00F0 else 0
  | _ => 0

/-- What an assembler writes in the ignored bits: E0 for `CLS` and `RET`, which 95_test_vectors.md P3 and P4
assemble as 0x00E0 and 0x00EE, and 0 in every other word (30_encoding.md R85: "`SHR Vx` and `SHL Vx` encode Y = 0";
log entry 14). -/
def assembledBits (w : Word) : Word := if w.extractLsb' 12 4 = 0x0#4 then 0x00E0 else 0

/-- A word is canonical when its ignored bits are those an assembler writes. A word that is not canonical
executes all the same (30_encoding.md R79). -/
def canonicalWord (w : Word) : Bool := w &&& ignoredBits w == assembledBits w

/-- A program image fits the program region 512..4095 (70_reset_and_hazards.md R244). -/
def programFits (bytes : List Byte) : Bool := bytes.length ≤ 3584

end Sys2Proof
end

