-- ==== Sys2Proof/Safety.lean ====
section
/-! DEFINITION. The terms claims are stated in: a running block, the instruction a step fetches, what a transition leaves unchanged, and the invariant of the block. -/

namespace Sys2Proof.Machine

/-- A block that runs: no fault is recorded (10_state.md R38). -/
abbrev State.Running (s : State) : Prop := s.fault = none

/-- The big-endian word at pc (20_memory.md R54, 40_step.md R90). -/
def wordAtPc (s : State) : Word := wordOfBytes (s.loadByte s.pc.toNat) (s.loadByte (s.pc.toNat + 1))

/-- The step at `s` fetches instruction `i` (40_step.md R90 to R92). -/
def Fetches (s : State) (i : Instr) : Prop := s.pc.toNat ≤ 4094 ∧ decode (wordAtPc s) = .ok i

/-- The step at `s` fetches a word that is no instruction (30_encoding.md R78). -/
def FetchesUnclassified (s : State) : Prop := s.pc.toNat ≤ 4094 ∧ ∃ r, decode (wordAtPc s) = .error r

/-- The parts of the state beside the general registers and memory that a transition may write. -/
inductive Part where
  | I | pc | stack | sp | DT | ST | fb | redraw | fault | events | draws
deriving DecidableEq, Repr

/-- No byte of memory is stored to. -/
def noStore : Nat → Prop := fun _ => False

/-- The addresses `lo` to `hi`, both included. -/
def storedRange (lo hi : Nat) : Nat → Prop := fun a => lo ≤ a ∧ a ≤ hi

/-- FRAME. From `s` to `t` everything is unchanged but the registers listed, the parts listed and the
bytes of memory at the stored addresses. The key cells and the parameters never change in a step
(10_state.md R35, 00_scope.md R9). -/
structure Unchanged (regs : List RegIx) (parts : List Part) (stored : Nat → Prop) (s t : State) : Prop where
  reg    : ∀ r, r ∉ regs → t.reg r = s.reg r
  mem    : ∀ a, ¬ stored a → t.loadByte a = s.loadByte a
  I      : Part.I ∉ parts → t.I = s.I
  pc     : Part.pc ∉ parts → t.pc = s.pc
  stack  : Part.stack ∉ parts → t.stack = s.stack
  sp     : Part.sp ∉ parts → t.sp = s.sp
  DT     : Part.DT ∉ parts → t.DT = s.DT
  ST     : Part.ST ∉ parts → t.ST = s.ST
  fb     : Part.fb ∉ parts → t.fb = s.fb
  redraw : Part.redraw ∉ parts → t.redraw = s.redraw
  fault  : Part.fault ∉ parts → t.fault = s.fault
  events : Part.events ∉ parts → t.events = s.events
  draws  : Part.draws ∉ parts → t.draws = s.draws
  keys   : t.keys = s.keys
  cfg    : t.cfg = s.cfg

/-- THE INVARIANT of every reachable state that is not already in the types (10_state.md R28, R41).
The types say the rest: 0 <= sp <= 16 and every frame-buffer cell is 0 or 1. -/
structure Inv (s : State) : Prop where
  /-- memory is in its canonical form -/
  memWf  : Memory.wf s.cfg s.mem
  /-- no pc ever wraps: the largest is the largest target of JP V0, NNN (R28) -/
  pcMax  : s.pc.toNat ≤ 0x10FE
  /-- every entry in use is the address of a CALL that was fetched (R28, R30) -/
  stackMax : ∀ j : Fin 16, j.val < s.sp.val → s.stack[j].toNat ≤ 4094
  /-- the font table is never altered when FONT_WRITE = fault (R41, 20_memory.md R59) -/
  font   : s.cfg.fontWrite = .fault → ∀ a (h : a < 80), s.loadByte a = s.cfg.font[a]

/-- The words of one row of the opcode map: every word that agrees with `pat` on `mask` decodes to the
instruction built from its fields (30_encoding.md R75). -/
def DecodesAs (mask pat : Word) (build : Word → Instr) : Prop := ∀ w, w &&& mask = pat → decode w = .ok (build w)

/-- The bit of a sprite that falls on pixel (px, py) when it is drawn at (cx, cy): column and row are the
wrapped distances from the origin, and bit 7 of a row is its leftmost pixel (44_display.md R181). -/
def spriteBit (rows : List Byte) (cx cy px py : Nat) : Bool :=
  let c := (px + 64 - cx % 64) % 64
  let r := (py + 32 - cy % 32) % 32
  match rows[r]? with
  | some row => decide (c < 8) && row.getLsbD (7 - c)
  | none => false

/-- The registers x[0] to x[X], those LD Vx,[I] loads (43_index_memory.md R166). -/
def regsUpTo (x : RegIx) : List RegIx := (List.range (x.toNat + 1)).map (BitVec.ofNat 4)

/-- TRAPS. Instruction `i` ends in fault `f`: a next state that differs in nothing but the recorded fault
and the event Fault(code, info) (60_exceptions.md R212). -/
def TakesFault (i : Instr) (s : State) (f : Fault) : Prop :=
  exec i s = .next { s with fault := some f, events := s.events ++ [.fault f] }

/-- The table of 10_state.md R24: which registers an instruction may write, as result or as flag. -/
def mayWriteReg (i : Instr) (r : RegIx) : Bool :=
  match i with
  | .ldImm x _ | .addImm x _ | .rnd x _ | .ldVxDT x | .ldVxK x => r = x
  | .ldReg x _ | .orReg x _ | .andReg x _ | .xorReg x _ => r = x
  | .addReg x _ | .subReg x _ | .subnReg x _ | .shr x | .shl x => r = x ∨ r = VF
  | .drw _ _ _ => r = VF
  | .ldRegs x => r ≤ x
  | .cls | .ret | .jp _ | .call _ | .seImm _ _ | .sneImm _ _ | .seReg _ _ | .sneReg _ _ | .ldI _ | .jpV0 _
  | .skp _ | .sknp _ | .ldDTVx _ | .ldSTVx _ | .addI _ | .ldF _ | .ldB _ | .stRegs _ => false

/-- 10_state.md R25: which registers an instruction may read. LD Vx,Vy reads x[Y] alone, as its pseudocode has it
(42_alu.md R133; DEDUCED, safe, log entry 19). -/
def mayReadReg (i : Instr) (r : RegIx) : Bool :=
  match i with
  | .cls | .ret | .jp _ | .call _ | .ldI _ | .ldImm _ _ | .rnd _ _ | .ldVxDT _ | .ldVxK _ | .ldRegs _ => false
  | .jpV0 _ => r = 0
  | .seImm x _ | .sneImm x _ | .addImm x _ | .shr x | .shl x | .skp x | .sknp x | .ldDTVx x | .ldSTVx x | .addI x
  | .ldF x | .ldB x => r = x
  | .ldReg _ y => r = y
  | .seReg x y | .sneReg x y | .orReg x y | .andReg x y | .xorReg x y | .addReg x y | .subReg x y | .subnReg x y
  | .drw x y _ => r = x ∨ r = y
  | .stRegs x => r ≤ x

/-- The table of 10_state.md R27: where an instruction that does not fault leaves pc. -/
def pcAfter (i : Instr) (s : State) : Word :=
  match i with
  | .jp nnn | .call nnn => BitVec.ofNat 16 nnn.toNat
  | .jpV0 nnn => BitVec.ofNat 16 (nnn.toNat + (s.reg 0).toNat)
  | .ret => s.stack[s.sp.val - 1]'(by omega) + 2
  | .seImm x nn => if s.reg x = nn then s.pc + 4 else s.pc + 2
  | .sneImm x nn => if s.reg x = nn then s.pc + 2 else s.pc + 4
  | .seReg x y => if s.reg x = s.reg y then s.pc + 4 else s.pc + 2
  | .sneReg x y => if s.reg x = s.reg y then s.pc + 2 else s.pc + 4
  | .skp x => if s.keyPressed ((s.reg x).setWidth 4) then s.pc + 4 else s.pc + 2
  | .sknp x => if s.keyPressed ((s.reg x).setWidth 4) then s.pc + 2 else s.pc + 4
  | .ldVxK _ => if ∃ k, s.keyPressed k = true then s.pc + 2 else s.pc
  | .cls | .ldImm _ _ | .addImm _ _ | .ldReg _ _ | .orReg _ _ | .andReg _ _ | .xorReg _ _ | .addReg _ _
  | .subReg _ _ | .shr _ | .subnReg _ _ | .shl _ | .ldI _ | .rnd _ _ | .drw _ _ _ | .ldVxDT _ | .ldDTVx _
  | .ldSTVx _ | .addI _ | .ldF _ | .ldB _ | .stRegs _ | .ldRegs _ => s.pc + 2

end Sys2Proof.Machine
end

