-- ==== Sys2Proof/Certificates/Slice0/Obligations.lean ====
section
/-! DEFINITION. The statements for the provers, from the numbered rules of spec/. -/

open Sys2Proof Sys2Proof.Machine

/-! ## Encoding and decoding (30_encoding.md) -/

/-- Decoding the word, or the bytes, an instruction is encoded to gives that instruction back, every operand at
every value (R70, R71, R75). The opcode numbers are log entry 13. -/
def Obligations.DecodeInvertsEncode : Prop :=
  ∀ (i : Instr) (rest : List Byte), i.WellFormed →
    decode (encode i) = .ok i ∧ decodeBytes (encodeBytes i ++ rest) = .ok (i, rest)

/-- A word that decodes to an instruction is that instruction's own word but for the ignored bits of R73, and
matches its row of the opcode map. The encoder writes ignored bits as the assembler does (log entry 14). -/
def Obligations.EncodeInvertsDecodeButForIgnoredBits : Prop :=
  ∀ (w : Word) (i : Instr), decode w = .ok i →
    encode i = (w &&& ~~~ ignoredBits w) ||| assembledBits w ∧ w &&& i.mask = i.pattern ∧ canonicalWord (encode i) = true

/-- R77: every word selects exactly one row of the opcode map or none, and two words with the same routing
key select the same row. -/
def Obligations.EveryWordSelectsOneRowOrNone : Prop :=
  (∀ w : Word,
    (∃ i, decode w = .ok i ∧ w &&& i.mask = i.pattern ∧
      ∀ j : Instr, w &&& j.mask = j.pattern → j.pattern = i.pattern ∧ j.mask = i.mask) ∨
    (decode w = .error (.unclassified w) ∧ ∀ j : Instr, w &&& j.mask ≠ j.pattern)) ∧
  (∀ v w : Word, routingKey v = routingKey w →
    (decode v).toOption.map Instr.pattern = (decode w).toOption.map Instr.pattern)

/-- R78: the unclassified words, by family. -/
def Obligations.UnclassifiedWordsByFamily : Prop :=
  ∀ w : Word, (∃ r, decode w = .error r) ↔
    (fieldF w = 0x0 ∧ fieldN w ∉ [0x0, 0xE]) ∨
    (fieldF w = 0x8 ∧ fieldN w ∈ [0x8, 0x9, 0xA, 0xB, 0xC, 0xD, 0xF]) ∨
    (fieldF w = 0xE ∧ fieldNN w ∉ [0x9E, 0xA1]) ∨
    (fieldF w = 0xF ∧ fieldNN w ∉ [0x07, 0x0A, 0x15, 0x18, 0x1E, 0x29, 0x33, 0x55, 0x65])

/-- R73, R79: words that differ in ignored bits only are the same instruction. -/
def Obligations.IgnoredBitsDoNotMatter : Prop :=
  (∀ (v w : Word) (i : Instr), v &&& ~~~ ignoredBits w = w &&& ~~~ ignoredBits w → decode w = .ok i → decode v = .ok i) ∧
  (∀ x y n : BitVec 4,
    decode (wordXYN 0x0 x y 0x0) = .ok .cls ∧ decode (wordXYN 0x0 x y 0xE) = .ok .ret ∧
    decode (wordXYN 0x5 x y n) = .ok (.seReg x y) ∧ decode (wordXYN 0x9 x y n) = .ok (.sneReg x y) ∧
    decode (wordXYN 0x8 x y 0x6) = .ok (.shr x) ∧ decode (wordXYN 0x8 x y 0xE) = .ok (.shl x))

/-- R80: the worked classification examples, each with its routing key. -/
def Obligations.WorkedClassificationExamples : Prop :=
  (routingKey 0x00E0 = 0x0000 ∧ decode 0x00E0 = .ok .cls) ∧
  (routingKey 0x00EE = 0x000E ∧ decode 0x00EE = .ok .ret) ∧
  decode 0x0005 = .error (.unclassified 0x0005) ∧
  (routingKey 0x8AB4 = 0x8004 ∧ decode 0x8AB4 = .ok (.addReg 0xA 0xB)) ∧
  (routingKey 0x8AB8 = 0x8008 ∧ decode 0x8AB8 = .error (.unclassified 0x8AB8)) ∧
  (routingKey 0xF165 = 0xF065 ∧ decode 0xF165 = .ok (.ldRegs 0x1)) ∧
  (routingKey 0xF166 = 0xF066 ∧ decode 0xF166 = .error (.unclassified 0xF166)) ∧
  (routingKey 0x5AB7 = 0x5000 ∧ decode 0x5AB7 = .ok (.seReg 0xA 0xB)) ∧
  (routingKey 0x0A1E = 0x000E ∧ decode 0x0A1E = .ok .ret)

/-! ## The step (40_step.md) and faults (60_exceptions.md) -/

/-- R90, R93, R98: when the big-endian word at pc decodes to `i`, the step of a running block is `exec i` on the
block with no event emitted yet (the events are a field of the state, log entry 4), followed by the timer tick
unless a fault was raised (no tick in a faulting step: the spec's decision D15, log entry 16). -/
def Obligations.StepRunsTheDecodedInstruction : Prop :=
  ∀ (s : State) (i : Instr), s.Running → s.pc.toNat ≤ 4094 →
    decode (wordOfBytes (s.loadByte s.pc.toNat) (s.loadByte (s.pc.toNat + 1))) = .ok i → i.WellFormed →
    step s = afterDispatch (exec i s.clearEvents) ∧
    ∀ t, exec i s.clearEvents = .next t → step s = .next (if t.fault = none then t.tick else t)

/-- R91: the fetch bound. A step at pc >= 4095 raises AddressFault(FETCH, pc) and changes nothing else; at every
other pc, 4094 and odd ones too, no fetch fault is raised. The fault is taken in a next state (log entry 5) that
holds the event (log entry 4). That a faulting step does not tick is the spec's decision D15 (log entry 16). -/
def Obligations.FetchBound : Prop :=
  ∀ s : State, s.Running →
    (4094 < s.pc.toNat → step s = .next { s with
      fault := some (.fetchAddress s.pc.toNat), events := [.fault (.fetchAddress s.pc.toNat)] }) ∧
    (s.pc.toNat ≤ 4094 → fetch s = some (s.loadByte s.pc.toNat, s.loadByte (s.pc.toNat + 1)) ∧
      ∀ t a, step s = .next t → t.fault ≠ some (.fetchAddress a))

/-- R95, R99, R215, R216: a step that fetches an unclassified word reports it, advances pc by 2 and ticks the
timers; it sets no fault and changes nothing else, and UnknownOpcode comes before Tone. The events are a field
of the state (log entry 4), their order is the spec's own choice (D25), and so is the tick in such a step (D15,
log entry 16). -/
def Obligations.UnclassifiedWordIsReported : Prop :=
  ∀ s : State, s.Running → FetchesUnclassified s →
    ∃ t, step s = .next t ∧
      t.events = .unknownOpcode (wordAtPc s) :: (if s.ST = 1 then [.tone] else []) ∧
      t.pc = s.pc + 2 ∧ t.DT.toNat = s.DT.toNat - 1 ∧ t.ST.toNat = s.ST.toNat - 1 ∧ t.Running ∧
      Unchanged [] [.pc, .DT, .ST, .events] noStore s t

/-- R100: a block whose fault is not none has no step; every call reports the recorded fault again. In the model the
report is the outcome `fault` (log entry 6). -/
def Obligations.FaultedBlockHasNoStep : Prop :=
  ∀ (s : State) (f : Fault), s.fault = some f →
    step s = .fault f ∧ (∀ t, step s ≠ .next t) ∧ ∀ n, Sys2Proof.core.run (n + 1) s = .fault f

/-- R3, R98: the step of a running block always answers a next state: it never blocks, and it refuses no
word whatever memory holds. -/
def Obligations.RunningBlockAlwaysSteps : Prop :=
  ∀ s : State, s.Running → ∃ t, step s = .next t

/-- R96, R97, R98: the timer tick. After dispatch left `u` with no fault raised, each non-zero timer is one less,
Tone is emitted, after the events of `u`, exactly when the sound timer was 1 just before the decrement, and
nothing else changes; when a fault was raised there is no tick. That a step with an unclassified word or a
waiting key ticks and a faulting step does not is the spec's decision D15 (log entry 16); the events are a field
of the state (log entry 4). -/
def Obligations.TimersTickOncePerCompletedStep : Prop :=
  ∀ (s u : State) (hi lo : Byte), s.Running → fetch s = some (hi, lo) → dispatchBytes hi lo s.clearEvents = .next u →
    ∃ t, step s = .next t ∧
      (u.fault = none →
        t.DT.toNat = u.DT.toNat - 1 ∧ t.ST.toNat = u.ST.toNat - 1 ∧ (.tone ∈ t.events ↔ u.ST = 1) ∧
        t.events = u.events ++ (if u.ST = 1 then [.tone] else []) ∧ Unchanged [] [.DT, .ST, .events] noStore u t) ∧
      (u.fault ≠ none → t = u)

/-- R99, R215: the events of a step, in order: at most one UnknownOpcode, at most one Tone after it, or one Fault
alone. UnknownOpcode carries the raw word of an unclassified fetch, Fault the recorded fault. The events are a
field of the state (log entry 4), UnknownOpcode before Tone is the spec's own choice (D25), and no Tone beside a
Fault rests on D15 (log entry 16). -/
def Obligations.EventsOfAStep : Prop :=
  ∀ s t : State, step s = .next t →
    (t.events = [] ∨ t.events = [.tone] ∨ (∃ w, t.events = [.unknownOpcode w]) ∨
      (∃ w, t.events = [.unknownOpcode w, .tone]) ∨ (∃ f, t.events = [.fault f])) ∧
    (∀ w, .unknownOpcode w ∈ t.events ↔ FetchesUnclassified s ∧ w = wordAtPc s) ∧
    (∀ f, .fault f ∈ t.events ↔ t.fault = some f)

/-- R212, R213: a fault is precise. A step that raises one leaves the state before the step with only the fault
recorded (and reported as the step's one event), and the block then takes no further step. The fault is taken in
a next state (log entries 4 and 5), and the step after it reports it again (log entry 6). That a faulting step
does not tick is the spec's decision D15 (log entry 16). -/
def Obligations.FaultsArePrecise : Prop :=
  ∀ (s t : State) (f : Fault), step s = .next t → t.fault = some f →
    t = { s with fault := some f, events := [.fault f] } ∧ step t = .fault f

/-- R211, R215: the causes of the six faults and what each records. A fault is taken in a next state (log entry 5);
FONT_WRITE is log entry 2. -/
def Obligations.FaultCauses : Prop :=
  ∀ s t : State, step s = .next t →
    (∀ a, t.fault = some (.fetchAddress a) ↔ 4094 < s.pc.toNat ∧ a = s.pc.toNat) ∧
    (∀ a, t.fault = some (.dataAddress a) ↔ a = max s.I.toNat 4096 ∧
      ((∃ x y n, Fetches s (.drw x y n) ∧ 0 < n.toNat ∧ 4095 < s.I.toNat + n.toNat - 1) ∨
       (∃ x, Fetches s (.ldB x) ∧ 4095 < s.I.toNat + 2) ∨
       (∃ x, (Fetches s (.stRegs x) ∨ Fetches s (.ldRegs x)) ∧ 4095 < s.I.toNat + x.toNat))) ∧
    (∀ k, t.fault = some (.keyNumber k) ↔
      ∃ x, (Fetches s (.skp x) ∨ Fetches s (.sknp x)) ∧ 15 < (s.reg x).toNat ∧ k = (s.reg x).toNat) ∧
    (∀ a, t.fault = some (.fontWrite a) ↔ a = s.I.toNat ∧ s.I.toNat < 80 ∧ s.cfg.fontWrite = .fault ∧
      ∃ x, Fetches s (.ldB x) ∨ Fetches s (.stRegs x)) ∧
    (∀ p, t.fault = some (.stackOverflow p) ↔ p = s.pc.toNat ∧ s.sp.val = 16 ∧ ∃ nnn, Fetches s (.call nnn)) ∧
    (∀ p, t.fault = some (.stackUnderflow p) ↔ p = s.pc.toNat ∧ s.sp.val = 0 ∧ Fetches s .ret)

/-- R211: the codes of the faults and reports, and what a fault records. -/
def Obligations.FaultAndReportCodes : Prop :=
  ∀ (n : Nat) (w : Word),
    [Fault.fetchAddress n, .dataAddress n, .keyNumber n, .fontWrite n, .stackOverflow n, .stackUnderflow n].map
      (fun f => (f.code, f.info)) = [(1, n), (2, n), (3, n), (4, n), (5, n), (6, n)] ∧
    Event.code (.unknownOpcode w) = some 16 ∧ LoadResult.code (.programTooLarge n) = some 32

/-- R27: where each instruction leaves pc; an unclassified word advances it by 2 and a faulting step leaves
it alone. -/
def Obligations.ProgramCounterTable : Prop :=
  ∀ s t : State, step s = .next t →
    (∀ i, Fetches s i → t.fault = none → t.pc = pcAfter i s) ∧
    (FetchesUnclassified s → t.pc = s.pc + 2) ∧
    (t.fault ≠ none → t.pc = s.pc)

/-- R102, R193 and the self-jump of R112: while the host does nothing (a run of `step` alone, log entry 12), a block
that waits for a key, with none pressed, or that jumps to its own address completes any number of steps and
changes nothing but the timers and the events (a field of the state, log entry 4). A waiting step ticks (the
spec's decision D15, log entry 16). A key is pressed when its cell is non-zero (log entry 9). -/
def Obligations.WaitingChangesOnlyTheTimers : Prop :=
  ∀ s : State, s.Running →
    ((∃ x, Fetches s (.ldVxK x) ∧ ∀ k : Fin 16, s.keys[k] = 0) ∨
      (∃ nnn, Fetches s (.jp nnn) ∧ s.pc.toNat = nnn.toNat)) →
    ∀ n : Nat, ∃ t, Sys2Proof.core.run n s = .next t ∧
      t.DT.toNat = s.DT.toNat - n ∧ t.ST.toNat = s.ST.toNat - n ∧
      Unchanged [] [.DT, .ST, .events] noStore s t

/-! ## Invariants and who may write what (10_state.md) -/

/-- R28, R41, R59: every step keeps the invariant: memory canonical, pc never wrapping, every stack entry in use a
fetched address, and the font table as it was under FONT_WRITE = fault. The canonical form of memory is log
entry 10. -/
def Obligations.StepKeepsInvariant : Prop :=
  ∀ s t : State, Inv s → step s = .next t → Inv t

/-- The invariant holds after initialization, whatever the parameters. The canonical form of memory is log entry 10. -/
def Obligations.InvariantAfterReset : Prop :=
  (∀ cfg : Config, Inv (State.initial cfg)) ∧ Inv State.reset

/-- R230: what the host may do between steps keeps the invariant: set a key, clear the redraw flag, load a program.
The host's actions are operations between steps (log entry 12). -/
def Obligations.HostActionsKeepInvariant : Prop :=
  ∀ s : State, Inv s →
    (∀ k b, Inv (setKey k b s)) ∧ Inv (clearRedraw s) ∧ ∀ bytes t, load bytes s = .loaded t → Inv t

/-- R59: with FONT_WRITE = fault no step alters a byte of the font table, in any state at all. -/
def Obligations.FontTableNeverAltered : Prop :=
  ∀ s t : State, s.cfg.fontWrite = .fault → step s = .next t → ∀ a, a < 80 → t.loadByte a = s.loadByte a

/-- R31, R34, R35, R36: only CLS and DRW write the frame buffer, and exactly they set the redraw flag, which
no step clears; only CALL and RET touch the stack; no step writes a key cell or a parameter. -/
def Obligations.WhoWritesDisplayStackAndKeys : Prop :=
  ∀ s t : State, step s = .next t →
    (t.fb ≠ s.fb → Fetches s .cls ∨ ∃ x y n, Fetches s (.drw x y n)) ∧
    (t.redraw = true ↔ s.redraw = true ∨ (t.fault = none ∧ (Fetches s .cls ∨ ∃ x y n, Fetches s (.drw x y n)))) ∧
    (t.stack ≠ s.stack → ∃ nnn, Fetches s (.call nnn)) ∧
    (t.sp ≠ s.sp → Fetches s .ret ∨ ∃ nnn, Fetches s (.call nnn)) ∧
    t.keys = s.keys ∧ t.cfg = s.cfg

/-- R24: a step writes no general register but those the table of R24 gives its instruction. In particular
the flag x[15] is written only by the flag-setting instructions, DRW, or as a result register. -/
def Obligations.RegistersWrittenAreThoseOfTheTable : Prop :=
  ∀ s t : State, step s = .next t →
    (∀ i, Fetches s i → ∀ r, mayWriteReg i r = false → t.reg r = s.reg r) ∧
    ((∀ i, ¬ Fetches s i) → ∀ r, t.reg r = s.reg r)

/-- R25, R133: an instruction's outcome depends on no register outside those it reads: with any other value in such
a register, and with the same random byte, it completes the same way, but for what that one register holds. The
registers are those of R25, but that LD Vx,Vy reads x[Y] alone, as its pseudocode R133 has it (DEDUCED, log
entry 19). Equal draw counters give RND equal bytes (log entry 3). -/
def Obligations.RegistersReadAreThoseOfTheTable : Prop :=
  ∀ (i : Instr) (s t : State) (r : RegIx) (v : Byte), mayReadReg i r = false → exec i s = .next t →
    ∃ w, exec i (s.setReg r v) = .next (t.setReg r w)

/-- R253: the block's behaviour does not depend on the redraw flag: with the flag set either way and with the same
random byte (equal draw counters, log entry 3), the step is the same but for that flag. -/
def Obligations.RedrawFlagIsNeverRead : Prop :=
  ∀ (s t : State) (b : Bool), step s = .next t →
    ∃ r, step { s with redraw := b } = .next { t with redraw := r }

/-- R31: stack entries at index sp and above can be observed by nothing: with other values there and with the same
random byte (equal draw counters, log entry 3), the step leaves the same block but for entries that are again
not in use. -/
def Obligations.StaleStackEntriesAreUnobservable : Prop :=
  ∀ (s t : State) (stk : Vector Word 16), (∀ j : Fin 16, j.val < s.sp.val → stk[j] = s.stack[j]) →
    step s = .next t →
    ∃ stk' : Vector Word 16, step { s with stack := stk } = .next { t with stack := stk' } ∧
      ∀ j : Fin 16, j.val < t.sp.val → stk'[j] = t.stack[j]

/-- R33: no instruction reads the sound timer: with any other value in it and with the same random byte (equal draw
counters, log entry 3), an instruction completes the same way but for that timer. -/
def Obligations.SoundTimerIsReadByNoInstruction : Prop :=
  ∀ (i : Instr) (s t : State) (v : Byte), exec i s = .next t →
    ∃ w, exec i { s with ST := v } = .next { t with ST := w }

/-- R252, R35: keys are read only by SKP, SKNP and LD Vx,K: every other instruction does the same whatever the key
cells hold, with the same random byte (equal draw counters, log entry 3). -/
def Obligations.KeysAreReadOnlyByKeyInstructions : Prop :=
  ∀ (i : Instr) (s t : State) (ks : Vector Byte 16),
    (∀ x, i ≠ .skp x ∧ i ≠ .sknp x ∧ i ≠ .ldVxK x) → exec i s = .next t →
    exec i { s with keys := ks } = .next { t with keys := ks }

/-! ## Reset and the host (70_reset_and_hazards.md) -/

/-- R40: the values after initialization, for every FONT and FONT_WRITE, and for the state after reset; after the
loader every element but the program region keeps them. That redraw is false and fault none is the spec's
decision (D13, D4, log entry 17). The default parameters of `State.reset` are log entries 1 and 2, and the load
is an operation between steps (log entry 12). -/
def Obligations.ValuesAfterInitialization : Prop :=
  (∀ cfg : Config,
    let s := State.initial cfg
    (∀ a (h : a < 80), s.loadByte a = cfg.font[a]) ∧ (∀ a, 80 ≤ a → s.loadByte a = 0) ∧
    (∀ r, s.reg r = 0) ∧ s.I = 0 ∧ s.pc = 512 ∧ (∀ j : Fin 16, s.stack[j] = 0) ∧ s.sp = 0 ∧ s.DT = 0 ∧ s.ST = 0 ∧
    (∀ k, cell s.fb k = false) ∧ (∀ k : Fin 16, s.keys[k] = 0) ∧ s.redraw = false ∧ s.fault = none ∧ s.cfg = cfg ∧
    ∀ bytes t, load bytes s = .loaded t → Unchanged [] [] (storedRange 512 (512 + bytes.length - 1)) s t) ∧
  State.reset = State.initial defaultConfig

/-- R244: the loader. A program over 3584 bytes fails with nothing written; any other is written verbatim from 512
on, and nothing else changes; the empty program is accepted, and the first step is then CLS. The load is an
operation between steps (log entry 12). -/
def Obligations.LoaderContract : Prop :=
  (∀ (bytes : List Byte) (s : State),
    (3584 < bytes.length → load bytes s = .programTooLarge bytes.length) ∧
    (bytes.length ≤ 3584 → ∃ t, load bytes s = .loaded t ∧
      (∀ i (h : i < bytes.length), t.loadByte (512 + i) = bytes[i]) ∧
      Unchanged [] [] (fun a => 512 ≤ a ∧ a < 512 + bytes.length) s t)) ∧
  (∀ cfg : Config, load [] (State.initial cfg) = .loaded (State.initial cfg) ∧ Fetches (State.initial cfg) .cls)

/-- R230: the input source sets one key cell to 1 or 0, the renderer clears the redraw flag and reads the frame
buffer and the flag; nothing else changes. The host's actions are operations between steps (log entry 12), and a
key is pressed when its cell is non-zero (log entry 9). -/
def Obligations.HostActionsDoOnlyWhatTheyMay : Prop :=
  ∀ (s : State) (k : BitVec 4) (b : Bool),
    (∀ j, (setKey k b s).keyPressed j = if j = k then b else s.keyPressed j) ∧
    { setKey k b s with keys := s.keys } = s ∧
    (clearRedraw s).redraw = false ∧ { clearRedraw s with redraw := s.redraw } = s ∧
    readFrame s = (s.fb, s.redraw) ∧
    ∀ px py, pixel s.fb px py = cell s.fb (py * 64 + px)

/-! ## Memory (20_memory.md) -/

/-- The canonical form is one: two memories in canonical form that read alike are the same data. The form is the
model's own (log entry 10). -/
def Obligations.CanonicalMemoryIsUnique : Prop :=
  ∀ (cfg : Config) (m m' : Memory), Memory.wf cfg m → Memory.wf cfg m' →
    (∀ a, Memory.load cfg m a = Memory.load cfg m' a) → m = m'

/-- R55, R56, R58: after a passed CheckRange no access of the range faults, and a write changes its one
byte; a failed check reports an address of the range at which the access itself would fault so, and no
lower address of the range is out of memory. -/
def Obligations.CheckedAccessesNeverFault : Prop :=
  ∀ (s : State) (lo hi : Nat) (kind : AccessKind), lo ≤ hi →
    (checkRange s lo hi kind = none → ∀ a v, lo ≤ a → a ≤ hi →
      memRead s a = .ok (s.loadByte a) ∧
      (kind = .write → ∃ t, memWrite s a v = .ok t ∧ t.loadByte a = v ∧ Unchanged [] [] (storedRange a a) s t)) ∧
    (∀ f, checkRange s lo hi kind = some f → ∃ a, lo ≤ a ∧ a ≤ hi ∧
      ((memRead s a = .error f ∧ f = .dataAddress a) ∨
       (kind = .write ∧ f = .fontWrite a ∧ ∀ v, memWrite s a v = .error f)) ∧
      ∀ b, lo ≤ b → b < a → memRead s b = .ok (s.loadByte b))

/-- R66: self-modifying code. A word that LD [I],Vx stores over the next instruction is the word the next
step fetches. -/
def Obligations.StoreIsSeenByTheNextFetch : Prop :=
  ∀ (s t : State) (x : RegIx), Fetches s (.stRegs x) → step s = .next t → t.fault = none →
    s.I.toNat ≤ s.pc.toNat + 2 → s.pc.toNat + 3 ≤ s.I.toNat + x.toNat →
    wordAtPc t = wordOfBytes (s.reg (BitVec.ofNat 4 (s.pc.toNat + 2 - s.I.toNat)))
      (s.reg (BitVec.ofNat 4 (s.pc.toNat + 3 - s.I.toNat)))

/-! ## Control transfer (41_control_flow.md) -/

/-- R111: RET pops the address of the CALL and lands two bytes after it; with an empty stack it raises
StackUnderflow. A fault is taken in a next state (log entry 5). -/
def Obligations.ReturnPopsTheStack : Prop :=
  DecodesAs 0xF00F 0x000E (fun _ => .ret) ∧
  ∀ s : State,
    (∀ j : Fin 16, s.sp.val = j.val + 1 → ∃ t, exec .ret s = .next t ∧ t.sp.val = j.val ∧ t.pc = s.stack[j] + 2 ∧
      Unchanged [] [.sp, .pc] noStore s t ∧ (4094 < t.pc.toNat → fetch t = none)) ∧
    (s.sp.val = 0 → TakesFault .ret s (.stackUnderflow s.pc.toNat))

/-- R113: CALL pushes its own address and jumps; with 16 entries on the stack it raises StackOverflow. A fault is
taken in a next state (log entry 5). -/
def Obligations.CallPushesItsAddress : Prop :=
  DecodesAs 0xF000 0x2000 (fun w => .call (fieldNNN w)) ∧
  ∀ (nnn : Addr12) (s : State),
    (s.sp.val < 16 → ∃ t, exec (.call nnn) s = .next t ∧ t.sp.val = s.sp.val + 1 ∧ t.pc.toNat = nnn.toNat ∧
      (∀ j : Fin 16, t.stack[j] = if j.val = s.sp.val then s.pc else s.stack[j]) ∧
      Unchanged [] [.stack, .sp, .pc] noStore s t) ∧
    (s.sp.val = 16 → TakesFault (.call nnn) s (.stackOverflow s.pc.toNat))

/-- R112, R118: the two jumps, absolute and absolute plus x[0]; the sum is not reduced, and a target of 4095
or above makes the next fetch fail. -/
def Obligations.JumpsSetTheProgramCounter : Prop :=
  DecodesAs 0xF000 0x1000 (fun w => .jp (fieldNNN w)) ∧ DecodesAs 0xF000 0xB000 (fun w => .jpV0 (fieldNNN w)) ∧
  ∀ (nnn : Addr12) (s : State),
    (∃ t, exec (.jp nnn) s = .next t ∧ t.pc.toNat = nnn.toNat ∧ Unchanged [] [.pc] noStore s t ∧
      (4095 ≤ t.pc.toNat → fetch t = none)) ∧
    (∃ t, exec (.jpV0 nnn) s = .next t ∧ t.pc.toNat = nnn.toNat + (s.reg 0).toNat ∧ Unchanged [] [.pc] noStore s t ∧
      (4095 ≤ t.pc.toNat → fetch t = none))

/-- R114, R115: the skips on an immediate. -/
def Obligations.SkipsOnImmediate : Prop :=
  DecodesAs 0xF000 0x3000 (fun w => .seImm (fieldX w) (fieldNN w)) ∧
  DecodesAs 0xF000 0x4000 (fun w => .sneImm (fieldX w) (fieldNN w)) ∧
  ∀ (x : RegIx) (nn : Byte) (s : State),
    (∃ t, exec (.seImm x nn) s = .next t ∧
      t.pc = s.pc + (if (s.reg x).toNat = nn.toNat then 4 else 2) ∧ Unchanged [] [.pc] noStore s t) ∧
    (∃ t, exec (.sneImm x nn) s = .next t ∧
      t.pc = s.pc + (if (s.reg x).toNat = nn.toNat then 2 else 4) ∧ Unchanged [] [.pc] noStore s t)

/-- R116, R117: the skips on two registers; the low nibble of the word is ignored; X = Y always skips, or
never. -/
def Obligations.SkipsOnRegisters : Prop :=
  DecodesAs 0xF000 0x5000 (fun w => .seReg (fieldX w) (fieldY w)) ∧
  DecodesAs 0xF000 0x9000 (fun w => .sneReg (fieldX w) (fieldY w)) ∧
  ∀ (x y : RegIx) (s : State),
    (∃ t, exec (.seReg x y) s = .next t ∧
      t.pc = s.pc + (if (s.reg x).toNat = (s.reg y).toNat then 4 else 2) ∧ Unchanged [] [.pc] noStore s t) ∧
    (∃ t, exec (.sneReg x y) s = .next t ∧
      t.pc = s.pc + (if (s.reg x).toNat = (s.reg y).toNat then 2 else 4) ∧ Unchanged [] [.pc] noStore s t)

/-- R111, R113: a CALL and then a RET come back to the word after the CALL, with the stack pointer as it
was. -/
def Obligations.ReturnAfterCallComesBack : Prop :=
  ∀ (s t : State) (nnn : Addr12), s.sp.val < 16 → exec (.call nnn) s = .next t →
    ∃ u, exec .ret t = .next u ∧ u.pc = s.pc + 2 ∧ u.sp = s.sp ∧
      Unchanged [] [.stack, .pc] noStore s u ∧ ∀ j : Fin 16, j.val < s.sp.val → u.stack[j] = s.stack[j]

/-! ## Registers and ALU (42_alu.md) -/

/-- R131, R132: load immediate, and add immediate modulo 256, which sets no flag. -/
def Obligations.LoadAndAddImmediate : Prop :=
  DecodesAs 0xF000 0x6000 (fun w => .ldImm (fieldX w) (fieldNN w)) ∧
  DecodesAs 0xF000 0x7000 (fun w => .addImm (fieldX w) (fieldNN w)) ∧
  ∀ (x : RegIx) (nn : Byte) (s : State),
    (∃ t, exec (.ldImm x nn) s = .next t ∧ t.reg x = nn ∧ t.pc = s.pc + 2 ∧ Unchanged [x] [.pc] noStore s t) ∧
    (∃ t, exec (.addImm x nn) s = .next t ∧ (t.reg x).toNat = ((s.reg x).toNat + nn.toNat) % 256 ∧
      t.pc = s.pc + 2 ∧ Unchanged [x] [.pc] noStore s t)

/-- R133 to R136: copy, or, and, exclusive or; none sets a flag. -/
def Obligations.CopyAndBitwise : Prop :=
  DecodesAs 0xF00F 0x8000 (fun w => .ldReg (fieldX w) (fieldY w)) ∧
  DecodesAs 0xF00F 0x8001 (fun w => .orReg (fieldX w) (fieldY w)) ∧
  DecodesAs 0xF00F 0x8002 (fun w => .andReg (fieldX w) (fieldY w)) ∧
  DecodesAs 0xF00F 0x8003 (fun w => .xorReg (fieldX w) (fieldY w)) ∧
  ∀ (x y : RegIx) (s : State),
    (∃ t, exec (.ldReg x y) s = .next t ∧ t.reg x = s.reg y ∧ t.pc = s.pc + 2 ∧ Unchanged [x] [.pc] noStore s t) ∧
    (∃ t, exec (.orReg x y) s = .next t ∧
      (∀ b : Fin 8, (t.reg x)[b] = ((s.reg x)[b] || (s.reg y)[b])) ∧ t.pc = s.pc + 2 ∧ Unchanged [x] [.pc] noStore s t) ∧
    (∃ t, exec (.andReg x y) s = .next t ∧
      (∀ b : Fin 8, (t.reg x)[b] = ((s.reg x)[b] && (s.reg y)[b])) ∧ t.pc = s.pc + 2 ∧ Unchanged [x] [.pc] noStore s t) ∧
    (∃ t, exec (.xorReg x y) s = .next t ∧
      (∀ b : Fin 8, (t.reg x)[b] = ((s.reg x)[b] != (s.reg y)[b])) ∧ t.pc = s.pc + 2 ∧ Unchanged [x] [.pc] noStore s t)

/-- R130, R137: add with carry out. The flag is that of the operands before the add, and with X = 15 the result
stays. That the result stays is the spec's decision D9 (log entry 7). -/
def Obligations.AddRegistersSetsCarry : Prop :=
  DecodesAs 0xF00F 0x8004 (fun w => .addReg (fieldX w) (fieldY w)) ∧
  ∀ (x y : RegIx) (s : State), ∃ t, exec (.addReg x y) s = .next t ∧
    (t.reg x).toNat = ((s.reg x).toNat + (s.reg y).toNat) % 256 ∧
    (x ≠ VF → (t.reg VF).toNat = if 255 < (s.reg x).toNat + (s.reg y).toNat then 1 else 0) ∧
    t.pc = s.pc + 2 ∧ Unchanged [x, VF] [.pc] noStore s t

/-- R130, R138, R140: subtract and reverse subtract; the flag is 1 when no borrow occurs, from the operands before
the operation, and with X = 15 the result stays. That the result stays is the spec's decision D9 (log entry 7). -/
def Obligations.SubtractsSetNotBorrow : Prop :=
  DecodesAs 0xF00F 0x8005 (fun w => .subReg (fieldX w) (fieldY w)) ∧
  DecodesAs 0xF00F 0x8007 (fun w => .subnReg (fieldX w) (fieldY w)) ∧
  ∀ (x y : RegIx) (s : State),
    (∃ t, exec (.subReg x y) s = .next t ∧
      (t.reg x).toNat = ((s.reg x).toNat + 256 - (s.reg y).toNat) % 256 ∧
      (x ≠ VF → (t.reg VF).toNat = if (s.reg y).toNat ≤ (s.reg x).toNat then 1 else 0) ∧
      t.pc = s.pc + 2 ∧ Unchanged [x, VF] [.pc] noStore s t) ∧
    (∃ t, exec (.subnReg x y) s = .next t ∧
      (t.reg x).toNat = ((s.reg y).toNat + 256 - (s.reg x).toNat) % 256 ∧
      (x ≠ VF → (t.reg VF).toNat = if (s.reg x).toNat ≤ (s.reg y).toNat then 1 else 0) ∧
      t.pc = s.pc + 2 ∧ Unchanged [x, VF] [.pc] noStore s t)

/-- R130, R139, R141: the shifts move x[X] by one bit, whatever Y holds; the flag is the bit moved out, and with X =
15 the result stays. That the result stays is the spec's decision D9 (log entry 7). -/
def Obligations.ShiftsSetTheBitMovedOut : Prop :=
  DecodesAs 0xF00F 0x8006 (fun w => .shr (fieldX w)) ∧ DecodesAs 0xF00F 0x800E (fun w => .shl (fieldX w)) ∧
  ∀ (x : RegIx) (s : State),
    (∃ t, exec (.shr x) s = .next t ∧ (t.reg x).toNat = (s.reg x).toNat / 2 ∧
      (x ≠ VF → (t.reg VF).toNat = (s.reg x).toNat % 2) ∧ t.pc = s.pc + 2 ∧ Unchanged [x, VF] [.pc] noStore s t) ∧
    (∃ t, exec (.shl x) s = .next t ∧ (t.reg x).toNat = (s.reg x).toNat * 2 % 256 ∧
      (x ≠ VF → (t.reg VF).toNat = (s.reg x).toNat / 128) ∧ t.pc = s.pc + 2 ∧ Unchanged [x, VF] [.pc] noStore s t)

/-- R142: RND writes the step's random byte masked by NN, whatever byte is drawn; the draw is the free value
`Config.rand8` of the model's counter (log entry 3), of which nothing is known. -/
def Obligations.RandomIsMasked : Prop :=
  DecodesAs 0xF000 0xC000 (fun w => .rnd (fieldX w) (fieldNN w)) ∧
  ∀ (x : RegIx) (nn : Byte) (s : State),
    (∃ t, exec (.rnd x nn) s = .next t ∧ t.reg x = Config.rand8 s.draws &&& nn ∧ t.draws = s.draws + 1 ∧
      t.pc = s.pc + 2 ∧ Unchanged [x] [.pc, .draws] noStore s t) ∧
    ∀ rand8 : Byte, (rndWith rand8 x nn s).reg x = rand8 &&& nn ∧ Unchanged [x] [.pc] noStore s (rndWith rand8 x nn s)

/-! ## Index register and memory (43_index_memory.md) -/

/-- R161, R162, R163: load index, add to index modulo 65536 with no flag, glyph address of the whole
register. -/
def Obligations.IndexRegisterInstructions : Prop :=
  DecodesAs 0xF000 0xA000 (fun w => .ldI (fieldNNN w)) ∧ DecodesAs 0xF0FF 0xF01E (fun w => .addI (fieldX w)) ∧
  DecodesAs 0xF0FF 0xF029 (fun w => .ldF (fieldX w)) ∧
  ∀ (nnn : Addr12) (x : RegIx) (s : State),
    (∃ t, exec (.ldI nnn) s = .next t ∧ t.I.toNat = nnn.toNat ∧ t.pc = s.pc + 2 ∧ Unchanged [] [.I, .pc] noStore s t) ∧
    (∃ t, exec (.addI x) s = .next t ∧ t.I.toNat = (s.I.toNat + (s.reg x).toNat) % 65536 ∧ t.pc = s.pc + 2 ∧
      Unchanged [] [.I, .pc] noStore s t) ∧
    (∃ t, exec (.ldF x) s = .next t ∧ t.I.toNat = (s.reg x).toNat * 5 ∧ t.pc = s.pc + 2 ∧
      Unchanged [] [.I, .pc] noStore s t)

/-- R164: LD B stores the three decimal digits at I, I + 1, I + 2; past 4095 it raises AddressFault(DATA), into a
protected font AddressFault(FONT), and then stores nothing. FONT_WRITE is log entry 2, and a fault is taken in a
next state (log entry 5). -/
def Obligations.StoreBcd : Prop :=
  DecodesAs 0xF0FF 0xF033 (fun w => .ldB (fieldX w)) ∧
  ∀ (x : RegIx) (s : State),
    (s.I.toNat + 2 ≤ 4095 → (80 ≤ s.I.toNat ∨ s.cfg.fontWrite = .allow) → ∃ t, exec (.ldB x) s = .next t ∧
      (t.loadByte (effectiveAddr s 0)).toNat = (s.reg x).toNat / 100 ∧
      (t.loadByte (effectiveAddr s 1)).toNat = (s.reg x).toNat / 10 % 10 ∧
      (t.loadByte (effectiveAddr s 2)).toNat = (s.reg x).toNat % 10 ∧
      t.pc = s.pc + 2 ∧ Unchanged [] [.pc] (storedRange (effectiveAddr s 0) (effectiveAddr s 2)) s t) ∧
    (4095 < s.I.toNat + 2 → TakesFault (.ldB x) s (.dataAddress (max s.I.toNat 4096))) ∧
    (s.I.toNat < 80 → s.cfg.fontWrite = .fault → TakesFault (.ldB x) s (.fontWrite s.I.toNat))

/-- R165: LD [I],Vx stores x[0] to x[X] at I to I + X and leaves I + X + 1 in I; its faults as in R164. FONT_WRITE
is log entry 2, and a fault is taken in a next state (log entry 5). -/
def Obligations.StoreRegisters : Prop :=
  DecodesAs 0xF0FF 0xF055 (fun w => .stRegs (fieldX w)) ∧
  ∀ (x : RegIx) (s : State),
    (s.I.toNat + x.toNat ≤ 4095 → (80 ≤ s.I.toNat ∨ s.cfg.fontWrite = .allow) → ∃ t, exec (.stRegs x) s = .next t ∧
      (∀ k : RegIx, k ≤ x → t.loadByte (effectiveAddr s k.toNat) = s.reg k) ∧
      t.I.toNat = s.I.toNat + x.toNat + 1 ∧ t.pc = s.pc + 2 ∧
      Unchanged [] [.I, .pc] (storedRange (effectiveAddr s 0) (effectiveAddr s x.toNat)) s t) ∧
    (4095 < s.I.toNat + x.toNat → TakesFault (.stRegs x) s (.dataAddress (max s.I.toNat 4096))) ∧
    (s.I.toNat < 80 → s.cfg.fontWrite = .fault → TakesFault (.stRegs x) s (.fontWrite s.I.toNat))

/-- R166: LD Vx,[I] loads x[0] to x[X] from I to I + X and leaves I + X + 1 in I; reads of the font are allowed, and
past 4095 it raises AddressFault(DATA) and loads nothing. A fault is taken in a next state (log entry 5). -/
def Obligations.LoadRegisters : Prop :=
  DecodesAs 0xF0FF 0xF065 (fun w => .ldRegs (fieldX w)) ∧
  ∀ (x : RegIx) (s : State),
    (s.I.toNat + x.toNat ≤ 4095 → ∃ t, exec (.ldRegs x) s = .next t ∧
      (∀ k : RegIx, k ≤ x → t.reg k = s.loadByte (s.I.toNat + k.toNat)) ∧
      t.I.toNat = s.I.toNat + x.toNat + 1 ∧ t.pc = s.pc + 2 ∧ Unchanged (regsUpTo x) [.I, .pc] noStore s t) ∧
    (4095 < s.I.toNat + x.toNat → TakesFault (.ldRegs x) s (.dataAddress (max s.I.toNat 4096)))

/-- R165, R166: a register dump and then, with I set back to the same base and whatever the registers hold
by then, a register load with the same X round-trips registers 0 to X. -/
def Obligations.DumpThenLoadRoundTrips : Prop :=
  ∀ (s t u : State) (x : RegIx), s.Running → exec (.stRegs x) s = .next t → t.Running →
    u.mem = t.mem → u.cfg = t.cfg → u.I = s.I →
    ∃ v, exec (.ldRegs x) u = .next v ∧ (∀ k : RegIx, k ≤ x → v.reg k = s.reg k) ∧ v.I = t.I

/-! ## Display (44_display.md) -/

/-- R180: CLS clears every cell and sets the redraw flag. -/
def Obligations.ClearScreen : Prop :=
  DecodesAs 0xF00F 0x0000 (fun _ => .cls) ∧
  ∀ s : State, ∃ t, exec .cls s = .next t ∧ (∀ k, cell t.fb k = false) ∧ t.redraw = true ∧ t.pc = s.pc + 2 ∧
    Unchanged [] [.fb, .redraw, .pc] noStore s t

/-- R181: DRW, pixel by pixel. Every pixel of the 64 x 32 buffer is XORed with the bit of the sprite that falls on
it, with both coordinates wrapped; the flag says whether a set pixel met a set bit; N = 0 draws nothing, writes
the flag 0 and sets redraw; past 4095 it raises AddressFault(DATA) and draws nothing. A fault is taken in a next
state (log entry 5). -/
def Obligations.DrawIsPixelwiseXor : Prop :=
  DecodesAs 0xF000 0xD000 (fun w => .drw (fieldX w) (fieldY w) (fieldN w)) ∧
  ∀ (x y : RegIx) (n : BitVec 4) (s : State),
    (n.toNat = 0 ∨ s.I.toNat + n.toNat - 1 ≤ 4095 → ∃ t, exec (.drw x y n) s = .next t ∧
      (∀ px py, px < 64 → py < 32 → cell t.fb (py * 64 + px) = (cell s.fb (py * 64 + px) !=
        spriteBit (s.loadBytes s.I.toNat n.toNat) (s.reg x).toNat (s.reg y).toNat px py)) ∧
      (t.reg VF = 0 ∨ t.reg VF = 1) ∧
      (t.reg VF = 1 ↔ ∃ px py, px < 64 ∧ py < 32 ∧ cell s.fb (py * 64 + px) = true ∧
        spriteBit (s.loadBytes s.I.toNat n.toNat) (s.reg x).toNat (s.reg y).toNat px py = true) ∧
      t.redraw = true ∧ t.pc = s.pc + 2 ∧ Unchanged [VF] [.fb, .redraw, .pc] noStore s t) ∧
    (0 < n.toNat → 4095 < s.I.toNat + n.toNat - 1 → TakesFault (.drw x y n) s (.dataAddress (max s.I.toNat 4096)))

/-- R181: the same draw twice restores the frame buffer, and the second draw gives flag 1 exactly when the
sprite has a bit on a pixel that was clear at the start (on a clear screen, exactly when it has a set bit:
90_conflicts.md C7, whose "whenever" holds of such a screen, log entry 15). The coordinates must not be in
x[15], which the first draw writes. -/
def Obligations.DrawTwiceRestores : Prop :=
  ∀ (s t : State) (x y : RegIx) (n : BitVec 4), x ≠ VF → y ≠ VF → s.Running →
    exec (.drw x y n) s = .next t → t.Running →
    ∃ u, exec (.drw x y n) t = .next u ∧ u.fb = s.fb ∧ (u.reg VF = 0 ∨ u.reg VF = 1) ∧
      (u.reg VF = 1 ↔ ∃ px py, px < 64 ∧ py < 32 ∧ cell s.fb (py * 64 + px) = false ∧
        spriteBit (s.loadBytes s.I.toNat n.toNat) (s.reg x).toNat (s.reg y).toNat px py = true) ∧
      (s.fb = 0 → (u.reg VF = 1 ↔ ∃ r, r < n.toNat ∧ s.loadByte (s.I.toNat + r) ≠ 0))

/-! ## Keys and timers (45_input_timers.md) -/

/-- R190, R191: the skips on a key named by a register's value; a value above 15 raises AddressFault(KEY). A fault
is taken in a next state (log entry 5), and a key is pressed when its cell is non-zero (log entry 9). -/
def Obligations.SkipsOnKey : Prop :=
  DecodesAs 0xF0FF 0xE09E (fun w => .skp (fieldX w)) ∧ DecodesAs 0xF0FF 0xE0A1 (fun w => .sknp (fieldX w)) ∧
  ∀ (x : RegIx) (s : State),
    (∀ h : (s.reg x).toNat < 16,
      (∃ t, exec (.skp x) s = .next t ∧ t.pc = s.pc + (if s.keys[(s.reg x).toNat] = 0 then 2 else 4) ∧
        Unchanged [] [.pc] noStore s t) ∧
      (∃ t, exec (.sknp x) s = .next t ∧ t.pc = s.pc + (if s.keys[(s.reg x).toNat] = 0 then 4 else 2) ∧
        Unchanged [] [.pc] noStore s t)) ∧
    (15 < (s.reg x).toNat → TakesFault (.skp x) s (.keyNumber (s.reg x).toNat) ∧
      TakesFault (.sknp x) s (.keyNumber (s.reg x).toNat))

/-- R193: LD Vx,K gives the least pressed key and advances, or changes nothing while none is pressed. A key is
pressed when its cell is non-zero (log entry 9). -/
def Obligations.WaitForKey : Prop :=
  DecodesAs 0xF0FF 0xF00A (fun w => .ldVxK (fieldX w)) ∧
  ∀ (x : RegIx) (s : State),
    ((∀ k : Fin 16, s.keys[k] = 0) → exec (.ldVxK x) s = .next s) ∧
    (∀ k : Fin 16, s.keys[k] ≠ 0 → (∀ j : Fin 16, j < k → s.keys[j] = 0) → ∃ t, exec (.ldVxK x) s = .next t ∧
      (t.reg x).toNat = k.val ∧ t.pc = s.pc + 2 ∧ Unchanged [x] [.pc] noStore s t)

/-- R192, R194, R195: reading the delay timer gives its value before the step's tick; setting a timer is
followed by the tick of the same step, so v > 0 ends as v - 1, and Tone is emitted in that step exactly
when the sound timer is set to 1. -/
def Obligations.TimerInstructions : Prop :=
  DecodesAs 0xF0FF 0xF007 (fun w => .ldVxDT (fieldX w)) ∧ DecodesAs 0xF0FF 0xF015 (fun w => .ldDTVx (fieldX w)) ∧
  DecodesAs 0xF0FF 0xF018 (fun w => .ldSTVx (fieldX w)) ∧
  ∀ (x : RegIx) (s : State),
    (∃ t, exec (.ldVxDT x) s = .next t ∧ t.reg x = s.DT ∧ t.pc = s.pc + 2 ∧ Unchanged [x] [.pc] noStore s t ∧
      t.tick.DT.toNat = s.DT.toNat - 1) ∧
    (∃ t, exec (.ldDTVx x) s = .next t ∧ t.DT = s.reg x ∧ t.pc = s.pc + 2 ∧ Unchanged [] [.DT, .pc] noStore s t ∧
      t.tick.DT.toNat = (s.reg x).toNat - 1) ∧
    (∃ t, exec (.ldSTVx x) s = .next t ∧ t.ST = s.reg x ∧ t.pc = s.pc + 2 ∧ Unchanged [] [.ST, .pc] noStore s t ∧
      t.tick.ST.toNat = (s.reg x).toNat - 1 ∧
      t.tick.events = s.events ++ (if s.reg x = 1 then [.tone] else []))
end

