-- ==== Sys2Proof/Laws/Decode.lean ====
section
/-! SUPPORT. The fields of a word built from fields, the key a row of the opcode map selects, and that no instruction is ill formed. -/

namespace Sys2Proof.Laws

theorem wellFormed_all (i : Instr) : i.WellFormed := by
  cases i <;> simp only [Instr.WellFormed] <;> omega

/-! ### Fields -/

theorem low_append {v w : Nat} (a : BitVec v) (b : BitVec w) : (a ++ b).extractLsb' 0 w = b := by
  rw [BitVec.extractLsb'_append_eq_of_add_le (by omega)]; simp

theorem high_append {v w : Nat} (a : BitVec v) (b : BitVec w) (i n : Nat) :
    (a ++ b).extractLsb' (w + i) n = a.extractLsb' i n := by
  rw [BitVec.extractLsb'_append_eq_of_le (by omega)]; simp

theorem fieldF_and (w m : Word) : fieldF (w &&& m) = fieldF w &&& fieldF m := BitVec.extractLsb'_and

theorem fieldX_wordXNN (f : BitVec 4) (x : RegIx) (nn : Byte) : fieldX (wordXNN f x nn) = x :=
  (high_append (f ++ x) nn 0 4).trans (low_append f x)

theorem fieldNN_wordXNN (f : BitVec 4) (x : RegIx) (nn : Byte) : fieldNN (wordXNN f x nn) = nn :=
  low_append (f ++ x) nn

theorem fieldX_wordXYN (f : BitVec 4) (x y : RegIx) (n : BitVec 4) : fieldX (wordXYN f x y n) = x :=
  (high_append (f ++ x ++ y) n 4 4).trans ((high_append (f ++ x) y 0 4).trans (low_append f x))

theorem fieldY_wordXYN (f : BitVec 4) (x y : RegIx) (n : BitVec 4) : fieldY (wordXYN f x y n) = y :=
  (high_append (f ++ x ++ y) n 0 4).trans (low_append (f ++ x) y)

theorem fieldN_wordXYN (f : BitVec 4) (x y : RegIx) (n : BitVec 4) : fieldN (wordXYN f x y n) = n :=
  low_append (f ++ x ++ y) n

theorem fieldNNN_wordNNN (f : BitVec 4) (nnn : Addr12) : fieldNNN (wordNNN f nnn) = nnn := low_append f nnn

/-- A word is its two bytes, the high one first. -/
theorem wordOfBytes_bytes (w : Word) : wordOfBytes (highByte w) (lowByte w) = w := by
  apply BitVec.eq_of_toNat_eq
  simp only [wordOfBytes, highByte, lowByte, BitVec.toNat_append, BitVec.extractLsb'_toNat]
  have h := w.isLt
  rw [← Nat.shiftLeft_add_eq_or_of_lt (Nat.mod_lt _ (by decide)), Nat.shiftLeft_eq, Nat.shiftRight_eq_div_pow]
  omega

/-! ### Masking a word built from fields -/

theorem wordNNN_and (f g : BitVec 4) (m n : Addr12) : wordNNN f m &&& wordNNN g n = wordNNN (f &&& g) (m &&& n) :=
  BitVec.and_append

theorem wordXNN_and (f g : BitVec 4) (x y : RegIx) (m n : Byte) :
    wordXNN f x m &&& wordXNN g y n = wordXNN (f &&& g) (x &&& y) (m &&& n) :=
  BitVec.and_append.trans (congrArg (· ++ (m &&& n)) BitVec.and_append)

theorem wordXYN_and (f g : BitVec 4) (x y x' y' : RegIx) (m n : BitVec 4) :
    wordXYN f x y m &&& wordXYN g x' y' n = wordXYN (f &&& g) (x &&& x') (y &&& y') (m &&& n) :=
  BitVec.and_append.trans (congrArg (· ++ (m &&& n))
    (BitVec.and_append.trans (congrArg (· ++ (y &&& y')) BitVec.and_append)))

theorem and_nibble (f : BitVec 4) : f &&& 0xF = f := by revert f; decide

theorem wordNNN_family (f : BitVec 4) (nnn : Addr12) : wordNNN f nnn &&& 0xF000 = wordNNN f 0 := by
  rw [show (0xF000 : Word) = wordNNN 0xF 0 by decide, wordNNN_and, and_nibble]; simp

theorem wordXNN_family (f : BitVec 4) (x : RegIx) (nn : Byte) : wordXNN f x nn &&& 0xF000 = wordXNN f 0 0 := by
  rw [show (0xF000 : Word) = wordXNN 0xF 0 0 by decide, wordXNN_and, and_nibble]; simp

theorem wordXNN_selector (f : BitVec 4) (x : RegIx) (nn : Byte) : wordXNN f x nn &&& 0xF0FF = wordXNN f 0 nn := by
  rw [show (0xF0FF : Word) = wordXNN 0xF 0 0xFF by decide, wordXNN_and, and_nibble,
    show nn &&& 0xFF = nn from BitVec.and_allOnes]
  simp

theorem wordXYN_family (f : BitVec 4) (x y : RegIx) (n : BitVec 4) : wordXYN f x y n &&& 0xF000 = wordXYN f 0 0 0 := by
  rw [show (0xF000 : Word) = wordXYN 0xF 0 0 0 by decide, wordXYN_and, and_nibble]; simp

theorem wordXYN_selector (f : BitVec 4) (x y : RegIx) (n : BitVec 4) : wordXYN f x y n &&& 0xF00F = wordXYN f 0 0 n := by
  rw [show (0xF00F : Word) = wordXYN 0xF 0 0 0xF by decide, wordXYN_and, and_nibble, and_nibble]; simp

/-! ### The opcode map -/

/-- A word that matches a row of the opcode map has that row's routing key (30_encoding.md R74, R75). -/
theorem routingKey_of_pattern (i : Instr) {w : Word} (h : w &&& i.mask = i.pattern) : routingKey w = i.pattern := by
  have hF : fieldF w &&& fieldF i.mask = fieldF i.pattern := by rw [← fieldF_and, h]
  have hm : fieldF i.mask = 0xF := by cases i <;> simp only [Instr.mask] <;> decide
  rw [hm, and_nibble] at hF
  unfold routingKey
  cases i <;> simp only [Instr.mask, Instr.pattern] at h hF ⊢ <;> rw [hF] <;> exact h

theorem word_eq {w : Word} {n : Nat} (h : w.toNat = n) : w = BitVec.ofNat 16 n := by subst h; simp

/-- The family is part of the routing key. -/
theorem fieldF_routingKey (w : Word) : fieldF (routingKey w) = fieldF w := by
  have hand : ∀ m : Word, fieldF m = 0xF → fieldF (w &&& m) = fieldF w := fun m hm => by
    rw [fieldF_and, hm, and_nibble]
  unfold routingKey
  repeat' split
  all_goals exact hand _ (by decide)

/-- A word that decodes to an instruction matches that instruction's row of the opcode map. -/
theorem decode_row {w : Word} {i : Instr} (h : decode w = .ok i) : w &&& i.mask = i.pattern := by
  have key : routingKey w = i.pattern ∧ routingKey w = w &&& i.mask := by
    have hf := fieldF_routingKey w
    unfold decode at h
    split at h <;> cases h <;> rename_i hk <;>
      (have hk' := word_eq hk
       refine ⟨hk', ?_⟩
       rw [hk'] at hf
       simp only [Instr.mask, routingKey, ← hf]
       simp [fieldF])
  rw [← key.2, key.1]

end Sys2Proof.Laws
end

