-- ==== Sys2Proof/Laws/Display.lean ====
section
/-! SUPPORT. The frame buffer: what a cell reads after a toggle and after a sprite. -/

namespace Sys2Proof.Machine

/-- Toggling cell j flips it and no other. -/
theorem cell_toggle (f : FrameBuffer) (j k : Nat) (hj : j < 2048) : cell (toggle f j) k = (cell f k != decide (k = j)) := by
  unfold cell toggle
  rw [BitVec.getLsbD_xor, BitVec.getLsbD_twoPow]
  by_cases h : k = j <;> simp [h, hj, eq_comm (a := j)]

/-- Drawing a list of distinct cells: each listed cell flips, and the flag says whether one of them was set. -/
theorem foldl_plot (ks : List Nat) (hd : ks.Nodup) (hlt : ∀ k ∈ ks, k < 2048) (f : FrameBuffer) (b : Bool) :
    (∀ k, cell (ks.foldl plot (f, b)).1 k = (cell f k != decide (k ∈ ks))) ∧
    ((ks.foldl plot (f, b)).2 = (b || ks.any (cell f))) := by
  induction ks generalizing f b with
  | nil => simp
  | cons j ks ih =>
    obtain ⟨hj, hd⟩ := List.nodup_cons.1 hd
    have hjlt := hlt j (by simp)
    obtain ⟨h1, h2⟩ := ih hd (fun k hk => hlt k (by simp [hk])) (toggle f j) (b || cell f j)
    refine ⟨fun k => ?_, ?_⟩
    · show cell (List.foldl plot (toggle f j, b || cell f j) ks).1 k = _
      rw [h1, cell_toggle f j k hjlt]
      by_cases hk : k = j
      · subst hk; simp [hj]
      · simp [hk]
    · show (List.foldl plot (toggle f j, b || cell f j) ks).2 = _
      rw [h2, List.any_cons, Bool.or_assoc]
      have hrest : ∀ k ∈ ks, cell (toggle f j) k = cell f k := fun k hk => by
        have : k ≠ j := fun h => hj (h ▸ hk)
        simp [cell_toggle f j k hjlt, this]
      have hany : ks.any (cell (toggle f j)) = ks.any (cell f) := by
        rw [Bool.eq_iff_iff, List.any_eq_true, List.any_eq_true]
        exact exists_congr fun k => and_congr_right fun hk => by rw [hrest k hk]
      rw [hany]

/-! ### The cells of a sprite -/

/-- The cells of one row: one for each bit of the row that is 1. -/
theorem mem_rowCells {cx cy r : Nat} {row : Byte} {k : Nat} :
    k ∈ rowCells cx cy r row ↔ ∃ c, c < 8 ∧ row.getLsbD (7 - c) = true ∧ k = (cy + r) % 32 * 64 + (cx + c) % 64 := by
  simp only [rowCells, List.mem_map, List.mem_filter, List.mem_range, pixelIndex]
  constructor
  · rintro ⟨c, ⟨hc, hb⟩, rfl⟩; exact ⟨c, hc, hb, rfl⟩
  · rintro ⟨c, hc, hb, rfl⟩; exact ⟨c, ⟨hc, hb⟩, rfl⟩

/-- The cells of a sprite: one for each bit that is 1, at its wrapped coordinates. -/
theorem mem_spriteCells {cx cy r0 : Nat} {rows : List Byte} {k : Nat} :
    k ∈ spriteCells cx cy r0 rows ↔ ∃ r c row, rows[r]? = some row ∧ c < 8 ∧ row.getLsbD (7 - c) = true ∧
      k = (cy + (r0 + r)) % 32 * 64 + (cx + c) % 64 := by
  induction rows generalizing r0 with
  | nil => simp [spriteCells]
  | cons row rows ih =>
    rw [spriteCells, List.mem_append, mem_rowCells, ih]
    constructor
    · rintro (⟨c, hc, hb, hk⟩ | ⟨r, c, row', hr, hc, hb, hk⟩)
      · exact ⟨0, c, row, rfl, hc, hb, hk⟩
      · exact ⟨r + 1, c, row', hr, hc, hb, by rw [hk]; congr 3; omega⟩
    · rintro ⟨r, c, row', hr, hc, hb, hk⟩
      cases r with
      | zero => cases hr; exact .inl ⟨c, hc, hb, hk⟩
      | succ r => exact .inr ⟨r, c, row', hr, hc, hb, by rw [hk]; congr 3; omega⟩

/-- Every cell of a sprite is a cell of the buffer. -/
theorem spriteCells_lt {cx cy r0 : Nat} {rows : List Byte} {k : Nat} (h : k ∈ spriteCells cx cy r0 rows) : k < 2048 := by
  obtain ⟨r, c, row, -, -, -, rfl⟩ := mem_spriteCells.1 h
  omega

theorem rowCells_nodup (cx cy r : Nat) (row : Byte) : (rowCells cx cy r row).Nodup := by
  refine (List.nodup_map_iff_inj_on (List.Nodup.filter _ List.nodup_range)).2 fun c hc d hd h => ?_
  have hc := List.mem_range.1 (List.mem_filter.1 hc).1
  have hd := List.mem_range.1 (List.mem_filter.1 hd).1
  simp only [pixelIndex] at h
  omega

/-- A sprite never overlaps itself (44_display.md R181). -/
theorem spriteCells_nodup (cx cy r0 : Nat) (rows : List Byte) (h : rows.length ≤ 32) :
    (spriteCells cx cy r0 rows).Nodup := by
  induction rows generalizing r0 with
  | nil => simp [spriteCells]
  | cons row rows ih =>
    rw [spriteCells, List.nodup_append]
    refine ⟨rowCells_nodup .., ih (r0 + 1) (by simp at h; omega), fun k hk j hj hkj => ?_⟩
    obtain ⟨c, hc, -, rfl⟩ := mem_rowCells.1 hk
    obtain ⟨r, d, row', hr, hd, -, rfl⟩ := mem_spriteCells.1 hj
    have := (List.getElem?_eq_some_iff.1 hr).1
    simp at h
    omega

end Sys2Proof.Machine
end

