-- ==== Sys2Proof/Laws/State.lean ====
section
/-! SUPPORT. For each update of the state, what it leaves in each field and what each reader then reads, all by definition. -/

namespace Sys2Proof.Machine

variable (s : State)

/-! ### setReg -/

@[simp] theorem setReg_mem (q : RegIx) (v : Byte) : (s.setReg q v).mem = s.mem := rfl
@[simp] theorem setReg_x (q : RegIx) (v : Byte) : (s.setReg q v).x = s.x.set q.toNat v := rfl
@[simp] theorem setReg_I (q : RegIx) (v : Byte) : (s.setReg q v).I = s.I := rfl
@[simp] theorem setReg_pc (q : RegIx) (v : Byte) : (s.setReg q v).pc = s.pc := rfl
@[simp] theorem setReg_stack (q : RegIx) (v : Byte) : (s.setReg q v).stack = s.stack := rfl
@[simp] theorem setReg_sp (q : RegIx) (v : Byte) : (s.setReg q v).sp = s.sp := rfl
@[simp] theorem setReg_DT (q : RegIx) (v : Byte) : (s.setReg q v).DT = s.DT := rfl
@[simp] theorem setReg_ST (q : RegIx) (v : Byte) : (s.setReg q v).ST = s.ST := rfl
@[simp] theorem setReg_fb (q : RegIx) (v : Byte) : (s.setReg q v).fb = s.fb := rfl
@[simp] theorem setReg_keys (q : RegIx) (v : Byte) : (s.setReg q v).keys = s.keys := rfl
@[simp] theorem setReg_redraw (q : RegIx) (v : Byte) : (s.setReg q v).redraw = s.redraw := rfl
@[simp] theorem setReg_fault (q : RegIx) (v : Byte) : (s.setReg q v).fault = s.fault := rfl
@[simp] theorem setReg_events (q : RegIx) (v : Byte) : (s.setReg q v).events = s.events := rfl
@[simp] theorem setReg_draws (q : RegIx) (v : Byte) : (s.setReg q v).draws = s.draws := rfl
@[simp] theorem setReg_cfg (q : RegIx) (v : Byte) : (s.setReg q v).cfg = s.cfg := rfl
@[simp] theorem setReg_loadByte (q : RegIx) (v : Byte) (a : Nat) : (s.setReg q v).loadByte a = s.loadByte a := rfl
@[simp] theorem setReg_keyPressed (q : RegIx) (v : Byte) (k : BitVec 4) : (s.setReg q v).keyPressed k = s.keyPressed k := rfl

/-! ### storeByte -/

@[simp] theorem storeByte_mem (b : Nat) (v : Byte) : (s.storeByte b v).mem = Memory.store s.cfg s.mem b v := rfl
@[simp] theorem storeByte_x (b : Nat) (v : Byte) : (s.storeByte b v).x = s.x := rfl
@[simp] theorem storeByte_I (b : Nat) (v : Byte) : (s.storeByte b v).I = s.I := rfl
@[simp] theorem storeByte_pc (b : Nat) (v : Byte) : (s.storeByte b v).pc = s.pc := rfl
@[simp] theorem storeByte_stack (b : Nat) (v : Byte) : (s.storeByte b v).stack = s.stack := rfl
@[simp] theorem storeByte_sp (b : Nat) (v : Byte) : (s.storeByte b v).sp = s.sp := rfl
@[simp] theorem storeByte_DT (b : Nat) (v : Byte) : (s.storeByte b v).DT = s.DT := rfl
@[simp] theorem storeByte_ST (b : Nat) (v : Byte) : (s.storeByte b v).ST = s.ST := rfl
@[simp] theorem storeByte_fb (b : Nat) (v : Byte) : (s.storeByte b v).fb = s.fb := rfl
@[simp] theorem storeByte_keys (b : Nat) (v : Byte) : (s.storeByte b v).keys = s.keys := rfl
@[simp] theorem storeByte_redraw (b : Nat) (v : Byte) : (s.storeByte b v).redraw = s.redraw := rfl
@[simp] theorem storeByte_fault (b : Nat) (v : Byte) : (s.storeByte b v).fault = s.fault := rfl
@[simp] theorem storeByte_events (b : Nat) (v : Byte) : (s.storeByte b v).events = s.events := rfl
@[simp] theorem storeByte_draws (b : Nat) (v : Byte) : (s.storeByte b v).draws = s.draws := rfl
@[simp] theorem storeByte_cfg (b : Nat) (v : Byte) : (s.storeByte b v).cfg = s.cfg := rfl
@[simp] theorem storeByte_reg (b : Nat) (v : Byte) (r : RegIx) : (s.storeByte b v).reg r = s.reg r := rfl
@[simp] theorem storeByte_keyPressed (b : Nat) (v : Byte) (k : BitVec 4) : (s.storeByte b v).keyPressed k = s.keyPressed k := rfl

/-! ### setI -/

@[simp] theorem setI_mem (v : Word) : (s.setI v).mem = s.mem := rfl
@[simp] theorem setI_x (v : Word) : (s.setI v).x = s.x := rfl
@[simp] theorem setI_I (v : Word) : (s.setI v).I = v := rfl
@[simp] theorem setI_pc (v : Word) : (s.setI v).pc = s.pc := rfl
@[simp] theorem setI_stack (v : Word) : (s.setI v).stack = s.stack := rfl
@[simp] theorem setI_sp (v : Word) : (s.setI v).sp = s.sp := rfl
@[simp] theorem setI_DT (v : Word) : (s.setI v).DT = s.DT := rfl
@[simp] theorem setI_ST (v : Word) : (s.setI v).ST = s.ST := rfl
@[simp] theorem setI_fb (v : Word) : (s.setI v).fb = s.fb := rfl
@[simp] theorem setI_keys (v : Word) : (s.setI v).keys = s.keys := rfl
@[simp] theorem setI_redraw (v : Word) : (s.setI v).redraw = s.redraw := rfl
@[simp] theorem setI_fault (v : Word) : (s.setI v).fault = s.fault := rfl
@[simp] theorem setI_events (v : Word) : (s.setI v).events = s.events := rfl
@[simp] theorem setI_draws (v : Word) : (s.setI v).draws = s.draws := rfl
@[simp] theorem setI_cfg (v : Word) : (s.setI v).cfg = s.cfg := rfl
@[simp] theorem setI_reg (v : Word) (r : RegIx) : (s.setI v).reg r = s.reg r := rfl
@[simp] theorem setI_loadByte (v : Word) (a : Nat) : (s.setI v).loadByte a = s.loadByte a := rfl
@[simp] theorem setI_keyPressed (v : Word) (k : BitVec 4) : (s.setI v).keyPressed k = s.keyPressed k := rfl

/-! ### setPc -/

@[simp] theorem setPc_mem (v : Word) : (s.setPc v).mem = s.mem := rfl
@[simp] theorem setPc_x (v : Word) : (s.setPc v).x = s.x := rfl
@[simp] theorem setPc_I (v : Word) : (s.setPc v).I = s.I := rfl
@[simp] theorem setPc_pc (v : Word) : (s.setPc v).pc = v := rfl
@[simp] theorem setPc_stack (v : Word) : (s.setPc v).stack = s.stack := rfl
@[simp] theorem setPc_sp (v : Word) : (s.setPc v).sp = s.sp := rfl
@[simp] theorem setPc_DT (v : Word) : (s.setPc v).DT = s.DT := rfl
@[simp] theorem setPc_ST (v : Word) : (s.setPc v).ST = s.ST := rfl
@[simp] theorem setPc_fb (v : Word) : (s.setPc v).fb = s.fb := rfl
@[simp] theorem setPc_keys (v : Word) : (s.setPc v).keys = s.keys := rfl
@[simp] theorem setPc_redraw (v : Word) : (s.setPc v).redraw = s.redraw := rfl
@[simp] theorem setPc_fault (v : Word) : (s.setPc v).fault = s.fault := rfl
@[simp] theorem setPc_events (v : Word) : (s.setPc v).events = s.events := rfl
@[simp] theorem setPc_draws (v : Word) : (s.setPc v).draws = s.draws := rfl
@[simp] theorem setPc_cfg (v : Word) : (s.setPc v).cfg = s.cfg := rfl
@[simp] theorem setPc_reg (v : Word) (r : RegIx) : (s.setPc v).reg r = s.reg r := rfl
@[simp] theorem setPc_loadByte (v : Word) (a : Nat) : (s.setPc v).loadByte a = s.loadByte a := rfl
@[simp] theorem setPc_keyPressed (v : Word) (k : BitVec 4) : (s.setPc v).keyPressed k = s.keyPressed k := rfl

/-! ### advance -/

@[simp] theorem advance_mem (n : Word) : (s.advance n).mem = s.mem := rfl
@[simp] theorem advance_x (n : Word) : (s.advance n).x = s.x := rfl
@[simp] theorem advance_I (n : Word) : (s.advance n).I = s.I := rfl
@[simp] theorem advance_pc (n : Word) : (s.advance n).pc = s.pc + n := rfl
@[simp] theorem advance_stack (n : Word) : (s.advance n).stack = s.stack := rfl
@[simp] theorem advance_sp (n : Word) : (s.advance n).sp = s.sp := rfl
@[simp] theorem advance_DT (n : Word) : (s.advance n).DT = s.DT := rfl
@[simp] theorem advance_ST (n : Word) : (s.advance n).ST = s.ST := rfl
@[simp] theorem advance_fb (n : Word) : (s.advance n).fb = s.fb := rfl
@[simp] theorem advance_keys (n : Word) : (s.advance n).keys = s.keys := rfl
@[simp] theorem advance_redraw (n : Word) : (s.advance n).redraw = s.redraw := rfl
@[simp] theorem advance_fault (n : Word) : (s.advance n).fault = s.fault := rfl
@[simp] theorem advance_events (n : Word) : (s.advance n).events = s.events := rfl
@[simp] theorem advance_draws (n : Word) : (s.advance n).draws = s.draws := rfl
@[simp] theorem advance_cfg (n : Word) : (s.advance n).cfg = s.cfg := rfl
@[simp] theorem advance_reg (n : Word) (r : RegIx) : (s.advance n).reg r = s.reg r := rfl
@[simp] theorem advance_loadByte (n : Word) (a : Nat) : (s.advance n).loadByte a = s.loadByte a := rfl
@[simp] theorem advance_keyPressed (n : Word) (k : BitVec 4) : (s.advance n).keyPressed k = s.keyPressed k := rfl

/-! ### skip -/

@[simp] theorem skip_mem (c : Bool) : (s.skip c).mem = s.mem := rfl
@[simp] theorem skip_x (c : Bool) : (s.skip c).x = s.x := rfl
@[simp] theorem skip_I (c : Bool) : (s.skip c).I = s.I := rfl
@[simp] theorem skip_pc (c : Bool) : (s.skip c).pc = s.pc + (if c then 4 else 2) := rfl
@[simp] theorem skip_stack (c : Bool) : (s.skip c).stack = s.stack := rfl
@[simp] theorem skip_sp (c : Bool) : (s.skip c).sp = s.sp := rfl
@[simp] theorem skip_DT (c : Bool) : (s.skip c).DT = s.DT := rfl
@[simp] theorem skip_ST (c : Bool) : (s.skip c).ST = s.ST := rfl
@[simp] theorem skip_fb (c : Bool) : (s.skip c).fb = s.fb := rfl
@[simp] theorem skip_keys (c : Bool) : (s.skip c).keys = s.keys := rfl
@[simp] theorem skip_redraw (c : Bool) : (s.skip c).redraw = s.redraw := rfl
@[simp] theorem skip_fault (c : Bool) : (s.skip c).fault = s.fault := rfl
@[simp] theorem skip_events (c : Bool) : (s.skip c).events = s.events := rfl
@[simp] theorem skip_draws (c : Bool) : (s.skip c).draws = s.draws := rfl
@[simp] theorem skip_cfg (c : Bool) : (s.skip c).cfg = s.cfg := rfl
@[simp] theorem skip_reg (c : Bool) (r : RegIx) : (s.skip c).reg r = s.reg r := rfl
@[simp] theorem skip_loadByte (c : Bool) (a : Nat) : (s.skip c).loadByte a = s.loadByte a := rfl
@[simp] theorem skip_keyPressed (c : Bool) (k : BitVec 4) : (s.skip c).keyPressed k = s.keyPressed k := rfl

/-! ### push -/

@[simp] theorem push_mem (v : Word) (h : s.sp.val < 16) : (s.push v h).mem = s.mem := rfl
@[simp] theorem push_x (v : Word) (h : s.sp.val < 16) : (s.push v h).x = s.x := rfl
@[simp] theorem push_I (v : Word) (h : s.sp.val < 16) : (s.push v h).I = s.I := rfl
@[simp] theorem push_pc (v : Word) (h : s.sp.val < 16) : (s.push v h).pc = s.pc := rfl
@[simp] theorem push_stack (v : Word) (h : s.sp.val < 16) : (s.push v h).stack = s.stack.set s.sp.val v := rfl
@[simp] theorem push_sp (v : Word) (h : s.sp.val < 16) : (s.push v h).sp = ⟨s.sp.val + 1, by omega⟩ := rfl
@[simp] theorem push_DT (v : Word) (h : s.sp.val < 16) : (s.push v h).DT = s.DT := rfl
@[simp] theorem push_ST (v : Word) (h : s.sp.val < 16) : (s.push v h).ST = s.ST := rfl
@[simp] theorem push_fb (v : Word) (h : s.sp.val < 16) : (s.push v h).fb = s.fb := rfl
@[simp] theorem push_keys (v : Word) (h : s.sp.val < 16) : (s.push v h).keys = s.keys := rfl
@[simp] theorem push_redraw (v : Word) (h : s.sp.val < 16) : (s.push v h).redraw = s.redraw := rfl
@[simp] theorem push_fault (v : Word) (h : s.sp.val < 16) : (s.push v h).fault = s.fault := rfl
@[simp] theorem push_events (v : Word) (h : s.sp.val < 16) : (s.push v h).events = s.events := rfl
@[simp] theorem push_draws (v : Word) (h : s.sp.val < 16) : (s.push v h).draws = s.draws := rfl
@[simp] theorem push_cfg (v : Word) (h : s.sp.val < 16) : (s.push v h).cfg = s.cfg := rfl
@[simp] theorem push_reg (v : Word) (h : s.sp.val < 16) (r : RegIx) : (s.push v h).reg r = s.reg r := rfl
@[simp] theorem push_loadByte (v : Word) (h : s.sp.val < 16) (a : Nat) : (s.push v h).loadByte a = s.loadByte a := rfl
@[simp] theorem push_keyPressed (v : Word) (h : s.sp.val < 16) (k : BitVec 4) : (s.push v h).keyPressed k = s.keyPressed k := rfl

/-! ### pop -/

@[simp] theorem pop_mem : (s.pop).mem = s.mem := rfl
@[simp] theorem pop_x : (s.pop).x = s.x := rfl
@[simp] theorem pop_I : (s.pop).I = s.I := rfl
@[simp] theorem pop_pc : (s.pop).pc = s.pc := rfl
@[simp] theorem pop_stack : (s.pop).stack = s.stack := rfl
@[simp] theorem pop_sp : (s.pop).sp = ⟨s.sp.val - 1, by omega⟩ := rfl
@[simp] theorem pop_DT : (s.pop).DT = s.DT := rfl
@[simp] theorem pop_ST : (s.pop).ST = s.ST := rfl
@[simp] theorem pop_fb : (s.pop).fb = s.fb := rfl
@[simp] theorem pop_keys : (s.pop).keys = s.keys := rfl
@[simp] theorem pop_redraw : (s.pop).redraw = s.redraw := rfl
@[simp] theorem pop_fault : (s.pop).fault = s.fault := rfl
@[simp] theorem pop_events : (s.pop).events = s.events := rfl
@[simp] theorem pop_draws : (s.pop).draws = s.draws := rfl
@[simp] theorem pop_cfg : (s.pop).cfg = s.cfg := rfl
@[simp] theorem pop_reg (r : RegIx) : (s.pop).reg r = s.reg r := rfl
@[simp] theorem pop_loadByte (a : Nat) : (s.pop).loadByte a = s.loadByte a := rfl
@[simp] theorem pop_keyPressed (k : BitVec 4) : (s.pop).keyPressed k = s.keyPressed k := rfl

/-! ### setDT -/

@[simp] theorem setDT_mem (v : Byte) : (s.setDT v).mem = s.mem := rfl
@[simp] theorem setDT_x (v : Byte) : (s.setDT v).x = s.x := rfl
@[simp] theorem setDT_I (v : Byte) : (s.setDT v).I = s.I := rfl
@[simp] theorem setDT_pc (v : Byte) : (s.setDT v).pc = s.pc := rfl
@[simp] theorem setDT_stack (v : Byte) : (s.setDT v).stack = s.stack := rfl
@[simp] theorem setDT_sp (v : Byte) : (s.setDT v).sp = s.sp := rfl
@[simp] theorem setDT_DT (v : Byte) : (s.setDT v).DT = v := rfl
@[simp] theorem setDT_ST (v : Byte) : (s.setDT v).ST = s.ST := rfl
@[simp] theorem setDT_fb (v : Byte) : (s.setDT v).fb = s.fb := rfl
@[simp] theorem setDT_keys (v : Byte) : (s.setDT v).keys = s.keys := rfl
@[simp] theorem setDT_redraw (v : Byte) : (s.setDT v).redraw = s.redraw := rfl
@[simp] theorem setDT_fault (v : Byte) : (s.setDT v).fault = s.fault := rfl
@[simp] theorem setDT_events (v : Byte) : (s.setDT v).events = s.events := rfl
@[simp] theorem setDT_draws (v : Byte) : (s.setDT v).draws = s.draws := rfl
@[simp] theorem setDT_cfg (v : Byte) : (s.setDT v).cfg = s.cfg := rfl
@[simp] theorem setDT_reg (v : Byte) (r : RegIx) : (s.setDT v).reg r = s.reg r := rfl
@[simp] theorem setDT_loadByte (v : Byte) (a : Nat) : (s.setDT v).loadByte a = s.loadByte a := rfl
@[simp] theorem setDT_keyPressed (v : Byte) (k : BitVec 4) : (s.setDT v).keyPressed k = s.keyPressed k := rfl

/-! ### setST -/

@[simp] theorem setST_mem (v : Byte) : (s.setST v).mem = s.mem := rfl
@[simp] theorem setST_x (v : Byte) : (s.setST v).x = s.x := rfl
@[simp] theorem setST_I (v : Byte) : (s.setST v).I = s.I := rfl
@[simp] theorem setST_pc (v : Byte) : (s.setST v).pc = s.pc := rfl
@[simp] theorem setST_stack (v : Byte) : (s.setST v).stack = s.stack := rfl
@[simp] theorem setST_sp (v : Byte) : (s.setST v).sp = s.sp := rfl
@[simp] theorem setST_DT (v : Byte) : (s.setST v).DT = s.DT := rfl
@[simp] theorem setST_ST (v : Byte) : (s.setST v).ST = v := rfl
@[simp] theorem setST_fb (v : Byte) : (s.setST v).fb = s.fb := rfl
@[simp] theorem setST_keys (v : Byte) : (s.setST v).keys = s.keys := rfl
@[simp] theorem setST_redraw (v : Byte) : (s.setST v).redraw = s.redraw := rfl
@[simp] theorem setST_fault (v : Byte) : (s.setST v).fault = s.fault := rfl
@[simp] theorem setST_events (v : Byte) : (s.setST v).events = s.events := rfl
@[simp] theorem setST_draws (v : Byte) : (s.setST v).draws = s.draws := rfl
@[simp] theorem setST_cfg (v : Byte) : (s.setST v).cfg = s.cfg := rfl
@[simp] theorem setST_reg (v : Byte) (r : RegIx) : (s.setST v).reg r = s.reg r := rfl
@[simp] theorem setST_loadByte (v : Byte) (a : Nat) : (s.setST v).loadByte a = s.loadByte a := rfl
@[simp] theorem setST_keyPressed (v : Byte) (k : BitVec 4) : (s.setST v).keyPressed k = s.keyPressed k := rfl

/-! ### paint -/

@[simp] theorem paint_mem (f : FrameBuffer) : (s.paint f).mem = s.mem := rfl
@[simp] theorem paint_x (f : FrameBuffer) : (s.paint f).x = s.x := rfl
@[simp] theorem paint_I (f : FrameBuffer) : (s.paint f).I = s.I := rfl
@[simp] theorem paint_pc (f : FrameBuffer) : (s.paint f).pc = s.pc := rfl
@[simp] theorem paint_stack (f : FrameBuffer) : (s.paint f).stack = s.stack := rfl
@[simp] theorem paint_sp (f : FrameBuffer) : (s.paint f).sp = s.sp := rfl
@[simp] theorem paint_DT (f : FrameBuffer) : (s.paint f).DT = s.DT := rfl
@[simp] theorem paint_ST (f : FrameBuffer) : (s.paint f).ST = s.ST := rfl
@[simp] theorem paint_fb (f : FrameBuffer) : (s.paint f).fb = f := rfl
@[simp] theorem paint_keys (f : FrameBuffer) : (s.paint f).keys = s.keys := rfl
@[simp] theorem paint_redraw (f : FrameBuffer) : (s.paint f).redraw = true := rfl
@[simp] theorem paint_fault (f : FrameBuffer) : (s.paint f).fault = s.fault := rfl
@[simp] theorem paint_events (f : FrameBuffer) : (s.paint f).events = s.events := rfl
@[simp] theorem paint_draws (f : FrameBuffer) : (s.paint f).draws = s.draws := rfl
@[simp] theorem paint_cfg (f : FrameBuffer) : (s.paint f).cfg = s.cfg := rfl
@[simp] theorem paint_reg (f : FrameBuffer) (r : RegIx) : (s.paint f).reg r = s.reg r := rfl
@[simp] theorem paint_loadByte (f : FrameBuffer) (a : Nat) : (s.paint f).loadByte a = s.loadByte a := rfl
@[simp] theorem paint_keyPressed (f : FrameBuffer) (k : BitVec 4) : (s.paint f).keyPressed k = s.keyPressed k := rfl

/-! ### emit -/

@[simp] theorem emit_mem (e : Event) : (s.emit e).mem = s.mem := rfl
@[simp] theorem emit_x (e : Event) : (s.emit e).x = s.x := rfl
@[simp] theorem emit_I (e : Event) : (s.emit e).I = s.I := rfl
@[simp] theorem emit_pc (e : Event) : (s.emit e).pc = s.pc := rfl
@[simp] theorem emit_stack (e : Event) : (s.emit e).stack = s.stack := rfl
@[simp] theorem emit_sp (e : Event) : (s.emit e).sp = s.sp := rfl
@[simp] theorem emit_DT (e : Event) : (s.emit e).DT = s.DT := rfl
@[simp] theorem emit_ST (e : Event) : (s.emit e).ST = s.ST := rfl
@[simp] theorem emit_fb (e : Event) : (s.emit e).fb = s.fb := rfl
@[simp] theorem emit_keys (e : Event) : (s.emit e).keys = s.keys := rfl
@[simp] theorem emit_redraw (e : Event) : (s.emit e).redraw = s.redraw := rfl
@[simp] theorem emit_fault (e : Event) : (s.emit e).fault = s.fault := rfl
@[simp] theorem emit_events (e : Event) : (s.emit e).events = s.events ++ [e] := rfl
@[simp] theorem emit_draws (e : Event) : (s.emit e).draws = s.draws := rfl
@[simp] theorem emit_cfg (e : Event) : (s.emit e).cfg = s.cfg := rfl
@[simp] theorem emit_reg (e : Event) (r : RegIx) : (s.emit e).reg r = s.reg r := rfl
@[simp] theorem emit_loadByte (e : Event) (a : Nat) : (s.emit e).loadByte a = s.loadByte a := rfl
@[simp] theorem emit_keyPressed (e : Event) (k : BitVec 4) : (s.emit e).keyPressed k = s.keyPressed k := rfl

/-! ### clearEvents -/

@[simp] theorem clearEvents_mem : (s.clearEvents).mem = s.mem := rfl
@[simp] theorem clearEvents_x : (s.clearEvents).x = s.x := rfl
@[simp] theorem clearEvents_I : (s.clearEvents).I = s.I := rfl
@[simp] theorem clearEvents_pc : (s.clearEvents).pc = s.pc := rfl
@[simp] theorem clearEvents_stack : (s.clearEvents).stack = s.stack := rfl
@[simp] theorem clearEvents_sp : (s.clearEvents).sp = s.sp := rfl
@[simp] theorem clearEvents_DT : (s.clearEvents).DT = s.DT := rfl
@[simp] theorem clearEvents_ST : (s.clearEvents).ST = s.ST := rfl
@[simp] theorem clearEvents_fb : (s.clearEvents).fb = s.fb := rfl
@[simp] theorem clearEvents_keys : (s.clearEvents).keys = s.keys := rfl
@[simp] theorem clearEvents_redraw : (s.clearEvents).redraw = s.redraw := rfl
@[simp] theorem clearEvents_fault : (s.clearEvents).fault = s.fault := rfl
@[simp] theorem clearEvents_events : (s.clearEvents).events = [] := rfl
@[simp] theorem clearEvents_draws : (s.clearEvents).draws = s.draws := rfl
@[simp] theorem clearEvents_cfg : (s.clearEvents).cfg = s.cfg := rfl
@[simp] theorem clearEvents_reg (r : RegIx) : (s.clearEvents).reg r = s.reg r := rfl
@[simp] theorem clearEvents_loadByte (a : Nat) : (s.clearEvents).loadByte a = s.loadByte a := rfl
@[simp] theorem clearEvents_keyPressed (k : BitVec 4) : (s.clearEvents).keyPressed k = s.keyPressed k := rfl

/-! ### nextDraw -/

@[simp] theorem nextDraw_mem : (s.nextDraw).mem = s.mem := rfl
@[simp] theorem nextDraw_x : (s.nextDraw).x = s.x := rfl
@[simp] theorem nextDraw_I : (s.nextDraw).I = s.I := rfl
@[simp] theorem nextDraw_pc : (s.nextDraw).pc = s.pc := rfl
@[simp] theorem nextDraw_stack : (s.nextDraw).stack = s.stack := rfl
@[simp] theorem nextDraw_sp : (s.nextDraw).sp = s.sp := rfl
@[simp] theorem nextDraw_DT : (s.nextDraw).DT = s.DT := rfl
@[simp] theorem nextDraw_ST : (s.nextDraw).ST = s.ST := rfl
@[simp] theorem nextDraw_fb : (s.nextDraw).fb = s.fb := rfl
@[simp] theorem nextDraw_keys : (s.nextDraw).keys = s.keys := rfl
@[simp] theorem nextDraw_redraw : (s.nextDraw).redraw = s.redraw := rfl
@[simp] theorem nextDraw_fault : (s.nextDraw).fault = s.fault := rfl
@[simp] theorem nextDraw_events : (s.nextDraw).events = s.events := rfl
@[simp] theorem nextDraw_draws : (s.nextDraw).draws = s.draws + 1 := rfl
@[simp] theorem nextDraw_cfg : (s.nextDraw).cfg = s.cfg := rfl
@[simp] theorem nextDraw_reg (r : RegIx) : (s.nextDraw).reg r = s.reg r := rfl
@[simp] theorem nextDraw_loadByte (a : Nat) : (s.nextDraw).loadByte a = s.loadByte a := rfl
@[simp] theorem nextDraw_keyPressed (k : BitVec 4) : (s.nextDraw).keyPressed k = s.keyPressed k := rfl

/-! ### withFault -/

@[simp] theorem withFault_mem (f : Fault) : (s.withFault f).mem = s.mem := rfl
@[simp] theorem withFault_x (f : Fault) : (s.withFault f).x = s.x := rfl
@[simp] theorem withFault_I (f : Fault) : (s.withFault f).I = s.I := rfl
@[simp] theorem withFault_pc (f : Fault) : (s.withFault f).pc = s.pc := rfl
@[simp] theorem withFault_stack (f : Fault) : (s.withFault f).stack = s.stack := rfl
@[simp] theorem withFault_sp (f : Fault) : (s.withFault f).sp = s.sp := rfl
@[simp] theorem withFault_DT (f : Fault) : (s.withFault f).DT = s.DT := rfl
@[simp] theorem withFault_ST (f : Fault) : (s.withFault f).ST = s.ST := rfl
@[simp] theorem withFault_fb (f : Fault) : (s.withFault f).fb = s.fb := rfl
@[simp] theorem withFault_keys (f : Fault) : (s.withFault f).keys = s.keys := rfl
@[simp] theorem withFault_redraw (f : Fault) : (s.withFault f).redraw = s.redraw := rfl
@[simp] theorem withFault_fault (f : Fault) : (s.withFault f).fault = some f := rfl
@[simp] theorem withFault_events (f : Fault) : (s.withFault f).events = s.events ++ [.fault f] := rfl
@[simp] theorem withFault_draws (f : Fault) : (s.withFault f).draws = s.draws := rfl
@[simp] theorem withFault_cfg (f : Fault) : (s.withFault f).cfg = s.cfg := rfl
@[simp] theorem withFault_reg (f : Fault) (r : RegIx) : (s.withFault f).reg r = s.reg r := rfl
@[simp] theorem withFault_loadByte (f : Fault) (a : Nat) : (s.withFault f).loadByte a = s.loadByte a := rfl
@[simp] theorem withFault_keyPressed (f : Fault) (k : BitVec 4) : (s.withFault f).keyPressed k = s.keyPressed k := rfl

end Sys2Proof.Machine
end

