-- ==== Sys2Proof/Laws/Memory.lean ====
section
/-! SUPPORT. Memory: what a read gives after a write, and that every operation keeps the canonical form. -/

namespace Sys2Proof.Machine

/-! ### Reading after writing -/

theorem lookup_insert (m : Memory) (a b : Nat) (v : Byte) :
    (m.insert a v).lookup b = if b = a then some v else m.lookup b := by
  induction m with
  | nil => by_cases h : a = b <;> simp [Memory.insert, Memory.lookup, h, Ne.symm]
  | cons c m ih =>
    unfold Memory.insert
    split
    · by_cases h : a = b <;> simp [Memory.lookup, h, eq_comm (a := b)]
    · split
      · rename_i hc
        by_cases h : a = b <;> simp [Memory.lookup, h, eq_comm (a := b), ← hc]
      · rename_i hlt hne
        by_cases hb : c.1 = b
        · have : b ≠ a := by omega
          simp [Memory.lookup, hb, this]
        · simp [Memory.lookup, hb, ih]

theorem lookup_erase (m : Memory) (a b : Nat) :
    (m.erase a).lookup b = if b = a then none else m.lookup b := by
  induction m with
  | nil => simp [Memory.erase, Memory.lookup]
  | cons c m ih =>
    unfold Memory.erase at ih ⊢
    by_cases hc : c.1 = a
    · rw [List.filter_cons_of_neg (by simpa using hc), ih]
      by_cases h : b = a
      · simp [h]
      · have : ¬ c.1 = b := by omega
        simp [h, Memory.lookup, this]
    · rw [List.filter_cons_of_pos (by simpa using hc)]
      by_cases hb : c.1 = b
      · have : b ≠ a := by omega
        simp [Memory.lookup, hb, this]
      · simp only [Memory.lookup, hb, if_false, ih]

theorem load_store (cfg : Config) (m : Memory) (a b : Nat) (v : Byte) :
    Memory.load cfg (Memory.store cfg m a v) b = if b = a then v else Memory.load cfg m b := by
  unfold Memory.load Memory.store
  split
  · rename_i hv
    rw [lookup_erase]
    by_cases h : b = a <;> simp [h, hv]
  · rw [lookup_insert]
    by_cases h : b = a <;> simp [h]

/-- A read after a write: the byte written at its address, the old byte everywhere else. -/
theorem loadByte_storeByte (s : State) (a b : Nat) (v : Byte) :
    (s.storeByte a v).loadByte b = if b = a then v else s.loadByte b := load_store ..

@[simp] theorem loadByte_storeByte_same (s : State) (a : Nat) (v : Byte) : (s.storeByte a v).loadByte a = v := by
  simp [loadByte_storeByte]

theorem loadByte_storeByte_other (s : State) {a b : Nat} (v : Byte) (h : b ≠ a) :
    (s.storeByte a v).loadByte b = s.loadByte b := by
  simp [loadByte_storeByte, h]

/-! ### The canonical form -/

theorem mem_insert {m : Memory} {a : Nat} {v : Byte} {c : Host.Cell} (h : c ∈ m.insert a v) :
    c = (a, v) ∨ c ∈ m := by
  induction m with
  | nil => simpa [Memory.insert] using h
  | cons d m ih =>
    unfold Memory.insert at h
    split at h
    · simpa using h
    · split at h
      · rcases List.mem_cons.1 h with h | h
        · exact .inl h
        · exact .inr (List.mem_cons_of_mem _ h)
      · rcases List.mem_cons.1 h with h | h
        · exact .inr (by simp [h])
        · exact (ih h).imp id (List.mem_cons_of_mem _)

theorem insert_sorted {m : Memory} (hm : m.Pairwise fun c d => c.1 < d.1) (a : Nat) (v : Byte) :
    (m.insert a v).Pairwise fun c d => c.1 < d.1 := by
  induction m with
  | nil => simp [Memory.insert]
  | cons d m ih =>
    obtain ⟨hd, hm'⟩ := List.pairwise_cons.1 hm
    unfold Memory.insert
    split
    · rename_i hlt
      refine List.pairwise_cons.2 ⟨fun c hc => ?_, hm⟩
      rcases List.mem_cons.1 hc with rfl | hc
      · exact hlt
      · exact Nat.lt_trans hlt (hd c hc)
    · split
      · rename_i heq
        exact List.pairwise_cons.2 ⟨fun c hc => by simpa [heq] using hd c hc, hm'⟩
      · refine List.pairwise_cons.2 ⟨fun c hc => ?_, ih hm'⟩
        rcases mem_insert hc with rfl | hc
        · show d.1 < a
          omega
        · exact hd c hc

/-- Storing inside the address space keeps the canonical form. -/
theorem store_wf {cfg : Config} {m : Memory} (hm : Memory.wf cfg m) {a : Nat} (ha : a < 4096) (v : Byte) :
    Memory.wf cfg (Memory.store cfg m a v) := by
  unfold Memory.store
  split
  · exact ⟨hm.1.filter _, fun c hc => hm.2 c (List.mem_filter.1 hc).1⟩
  · rename_i hv
    refine ⟨insert_sorted hm.1 a v, fun c hc => ?_⟩
    rcases mem_insert hc with rfl | hc
    · exact ⟨ha, hv⟩
    · exact hm.2 c hc

/-- Nothing listed is the canonical form of the reset contents. -/
theorem wf_nil (cfg : Config) : Memory.wf cfg [] := ⟨.nil, fun _ h => nomatch h⟩

theorem storeByte_wf {s : State} (hm : Memory.wf s.cfg s.mem) {a : Nat} (ha : a < 4096) (v : Byte) :
    Memory.wf (s.storeByte a v).cfg (s.storeByte a v).mem := store_wf hm ha v

end Sys2Proof.Machine
end

