-- ==== Sys2Proof/Laws/Regs.lean ====
section
/-! SUPPORT. Registers: what a register reads after a write, after flag and result, and after a block load or store. -/

namespace Sys2Proof.Machine

/-- `x[q] <- v`: register q reads v, every other as before. -/
theorem reg_setReg (s : State) (q r : RegIx) (v : Byte) : (s.setReg q v).reg r = if r = q then v else s.reg r := by
  unfold State.reg State.setReg
  by_cases h : r = q
  · subst h; simp
  · have : q.toNat ≠ r.toNat := fun e => h (BitVec.eq_of_toNat_eq e.symm)
    simp [this, h]

@[simp] theorem reg_setReg_same (s : State) (q : RegIx) (v : Byte) : (s.setReg q v).reg q = v := by
  simp [reg_setReg]

theorem reg_setReg_other (s : State) {q r : RegIx} (v : Byte) (h : r ≠ q) : (s.setReg q v).reg r = s.reg r := by
  simp [reg_setReg, h]

/-- Flag then result: x[X] holds the result, x[15] the flag unless X = 15, the rest is unchanged. -/
theorem reg_setFlagThenReg (s : State) (flag : Bool) (q r : RegIx) (v : Byte) :
    (s.setFlagThenReg flag q v).reg r = if r = q then v else if r = VF then flagByte flag else s.reg r := by
  simp [State.setFlagThenReg, reg_setReg]

/-- Flag then result writes nothing but registers. -/
theorem setFlagThenReg_eq (s : State) (flag : Bool) (q : RegIx) (v : Byte) :
    s.setFlagThenReg flag q v = { s with x := (s.setFlagThenReg flag q v).x } := rfl

/-! ### Block load and store (43_index_memory.md R165, R166) -/

/-- A block load writes nothing but registers. -/
theorem loadRegs_eq (s : State) (base n : Nat) : s.loadRegs base n = { s with x := (s.loadRegs base n).x } := by
  induction n with
  | zero => rfl
  | succ n ih =>
    show (s.loadRegs base n).setReg _ _ = _
    rw [ih]; rfl

/-- A block load of n registers: each of x[0..n-1] holds its byte of memory, the rest is unchanged. -/
theorem reg_loadRegs (s : State) (base n : Nat) (hn : n ≤ 16) (r : RegIx) :
    (s.loadRegs base n).reg r = if r.toNat < n then s.loadByte (base + r.toNat) else s.reg r := by
  induction n with
  | zero => simp [State.loadRegs]
  | succ n ih =>
    have hr := r.isLt
    simp only [State.loadRegs, reg_setReg, ih (by omega)]
    have hiff : r = BitVec.ofNat 4 n ↔ r.toNat = n := by
      rw [← BitVec.toNat_inj, BitVec.toNat_ofNat, Nat.mod_eq_of_lt (by omega)]
    by_cases h : r.toNat = n
    · subst h; simp
    · have : ¬ r = BitVec.ofNat 4 n := fun e => h (hiff.1 e)
      have h2 : r.toNat < n + 1 ↔ r.toNat < n := by omega
      simp [this, h2]

/-- A block store writes nothing but memory. -/
theorem storeRegs_eq (s : State) (base n : Nat) : s.storeRegs base n = { s with mem := (s.storeRegs base n).mem } := by
  induction n with
  | zero => rfl
  | succ n ih =>
    simp only [State.storeRegs, State.storeByte]
    generalize s.storeRegs base n = t at ih
    rw [ih]

/-- A block store of n registers: byte base + k is x[k] for k < n, every other byte is unchanged. -/
theorem loadByte_storeRegs (s : State) (base n a : Nat) :
    (s.storeRegs base n).loadByte a =
      if base ≤ a ∧ a < base + n then s.reg (BitVec.ofNat 4 (a - base)) else s.loadByte a := by
  induction n with
  | zero => simp [State.storeRegs]
  | succ n ih =>
    simp only [State.storeRegs, loadByte_storeByte, ih]
    by_cases h : a = base + n
    · simp [h]
    · have : (base ≤ a ∧ a < base + (n + 1)) ↔ (base ≤ a ∧ a < base + n) := by omega
      simp [h, this]

/-- A block store inside the address space keeps the canonical form. -/
theorem storeRegs_wf {s : State} (hm : Memory.wf s.cfg s.mem) (base n : Nat) (h : base + n ≤ 4096) :
    Memory.wf s.cfg (s.storeRegs base n).mem := by
  induction n with
  | zero => exact hm
  | succ n ih =>
    have hc : (s.storeRegs base n).cfg = s.cfg := by rw [storeRegs_eq]
    have := storeByte_wf (s := s.storeRegs base n) (by rw [hc]; exact ih (by omega)) (a := base + n) (by omega)
      (s.reg (BitVec.ofNat 4 n))
    rwa [storeByte_cfg, hc] at this

/-! ### Order of register writes, and what block transfers depend on -/

/-- Writes to two registers commute. -/
theorem setReg_comm (s : State) {q r : RegIx} (v w : Byte) (h : q ≠ r) :
    (s.setReg r v).setReg q w = (s.setReg q w).setReg r v := by
  have hn : q.toNat ≠ r.toNat := fun e => h (BitVec.eq_of_toNat_eq e)
  have hx : (s.x.set r.toNat v).set q.toNat w = (s.x.set q.toNat w).set r.toNat v := Vector.set_comm _ _ hn.symm
  simp [State.setReg, hx]

/-- The later of two writes to one register stays. -/
@[simp] theorem setReg_setReg (s : State) (r : RegIx) (v w : Byte) : (s.setReg r v).setReg r w = s.setReg r w := by
  simp [State.setReg]

/-- What a block store leaves in memory depends on memory, registers and parameters only. -/
theorem storeRegs_mem_congr {s u : State} (base n : Nat) (hm : u.mem = s.mem) (hx : u.x = s.x) (hc : u.cfg = s.cfg) :
    (u.storeRegs base n).mem = (s.storeRegs base n).mem := by
  induction n with
  | zero => exact hm
  | succ n ih =>
    simp only [State.storeRegs, State.storeByte, State.reg, ih, hx]
    rw [storeRegs_eq, storeRegs_eq s, hc]

/-- What a block load leaves in the registers depends on memory, registers and parameters only. -/
theorem loadRegs_x_congr {s u : State} (base n : Nat) (hm : u.mem = s.mem) (hx : u.x = s.x) (hc : u.cfg = s.cfg) :
    (u.loadRegs base n).x = (s.loadRegs base n).x := by
  induction n with
  | zero => exact hx
  | succ n ih => simp [State.loadRegs, State.setReg, State.loadByte, ih, hm, hc]

end Sys2Proof.Machine
end

