-- ==== Sys2Proof/Laws/Ops.lean ====
section
/-! SUPPORT. One lemma per shared operation that says everything it can answer. -/

namespace Sys2Proof.Machine

/-! ### Range checks and operands -/

/-- A passed check: the range lies in memory, and a write meets no font byte it may not write. -/
theorem checkRange_eq_none {s : State} {lo hi : Nat} {kind : AccessKind} :
    checkRange s lo hi kind = none ↔ hi ≤ 4095 ∧ ¬ (kind = .write ∧ lo < 80 ∧ s.cfg.fontWrite = .fault) := by
  unfold checkRange
  split
  · simp; omega
  · split <;> simp_all

/-- A failed check: which of the two faults, and why. -/
theorem checkRange_eq_some {s : State} {lo hi : Nat} {kind : AccessKind} {f : Fault} :
    checkRange s lo hi kind = some f ↔
      (4095 < hi ∧ f = .dataAddress (max lo 4096)) ∨
      (hi ≤ 4095 ∧ (kind = .write ∧ lo < 80 ∧ s.cfg.fontWrite = .fault) ∧ f = .fontWrite lo) := by
  unfold checkRange
  split
  · rename_i h
    simp [h, Nat.not_le.2 h, eq_comm]
  · rename_i h
    split <;> simp_all [eq_comm]

/-- The check of DRW: none for N = 0, the read check of its N bytes otherwise. -/
theorem checkSprite_eq_none {s : State} {n : Nat} :
    checkSprite s n = none ↔ n = 0 ∨ s.I.toNat + (n - 1) ≤ 4095 := by
  unfold checkSprite
  split
  · simp_all
  · simp_all [checkRange_eq_none, effectiveAddr]

theorem checkSprite_eq_some {s : State} {n : Nat} {f : Fault} :
    checkSprite s n = some f ↔ n ≠ 0 ∧ 4095 < s.I.toNat + (n - 1) ∧ f = .dataAddress (max s.I.toNat 4096) := by
  unfold checkSprite
  split
  · simp_all
  · simp_all [checkRange_eq_some, effectiveAddr]

/-- A key operand: the register's value when it is at most 15, else the key fault. -/
theorem keyOperand_eq_ok {s : State} {x : RegIx} {k : BitVec 4} :
    keyOperand s x = .ok k ↔ (s.reg x).toNat ≤ 15 ∧ k = (s.reg x).setWidth 4 := by
  unfold keyOperand
  split <;> simp_all [eq_comm]

theorem keyOperand_eq_error {s : State} {x : RegIx} {f : Fault} :
    keyOperand s x = .error f ↔ 15 < (s.reg x).toNat ∧ f = .keyNumber (s.reg x).toNat := by
  unfold keyOperand
  split <;> simp_all [eq_comm]

theorem mem_keyNumbers (k : BitVec 4) : k ∈ keyNumbers := by revert k; decide

/-- No key is found exactly when none is pressed. -/
theorem lowestPressed_eq_none {s : State} : lowestPressed s = none ↔ ∀ k, s.keyPressed k = false := by
  simp [lowestPressed, List.find?_eq_none, mem_keyNumbers]

/-- The key found is pressed, and no lower one is. -/
theorem lowestPressed_eq_some {s : State} {k : BitVec 4} (h : lowestPressed s = some k) :
    s.keyPressed k = true ∧ ∀ j, j < k → s.keyPressed j = false := by
  refine ⟨List.find?_some h, fun j hj => ?_⟩
  obtain ⟨-, as, bs, hl, ha⟩ := List.find?_eq_some_iff_append.1 h
  have hsort : keyNumbers.Pairwise (· < ·) := by decide
  rw [hl] at hsort
  have hm : j ∈ as := by
    have hj' := mem_keyNumbers j
    rw [hl, List.mem_append, List.mem_cons] at hj'
    rcases hj' with hj' | rfl | hj'
    · exact hj'
    · exact absurd hj (BitVec.lt_irrefl _)
    · have := List.rel_of_pairwise_cons (List.pairwise_append.1 hsort).2.1 hj'
      exact absurd hj (BitVec.not_lt.2 (BitVec.le_of_lt this))
  simpa using ha j hm

/-! ### The parts of a step -/

/-- Fetch gives the two bytes at pc when both lie in memory, and nothing else. -/
theorem fetch_eq_some {s : State} (h : s.pc.toNat ≤ 4094) :
    fetch s = some (s.loadByte s.pc.toNat, s.loadByte (s.pc.toNat + 1)) := by
  simp [fetch, Nat.lt_succ_of_le h]

theorem fetch_eq_none {s : State} : fetch s = none ↔ 4095 ≤ s.pc.toNat := by
  unfold fetch
  split <;> simp <;> omega

/-- The tick writes the timers and the events, and nothing else. -/
theorem tick_eq (s : State) :
    s.tick = { s with
      DT := if s.DT = 0 then 0 else s.DT - 1
      ST := if s.ST = 0 then 0 else s.ST - 1
      events := s.events ++ (if s.ST = 1 then [.tone] else []) } := by
  unfold State.tick State.tickDelay State.tickSound
  by_cases hd : s.DT = 0 <;> by_cases h0 : s.ST = 0 <;> by_cases h1 : s.ST = 1 <;>
    simp_all [State.emit, State.setDT, State.setST]
  all_goals (cases s; simp_all)

/-- A ticked timer, as a number. -/
theorem toNat_tick (v : Byte) : (if v = 0 then 0 else v - 1 : Byte).toNat = v.toNat - 1 := by
  revert v; decide

/-- The step of a running block whose fetch fails. -/
theorem step_fetch_fault {s : State} (hr : s.Running) (h : 4095 ≤ s.pc.toNat) :
    step s = .next (s.clearEvents.withFault (.fetchAddress s.pc.toNat)) := by
  have : fetch s.clearEvents = none := fetch_eq_none.2 h
  simp [step, hr, runStep, this, raise]

/-- The step of a running block that fetches an instruction: the instruction, then what follows dispatch. -/
theorem step_fetches {s : State} {i : Instr} (hr : s.Running) (h : Fetches s i) :
    step s = afterDispatch (exec i s.clearEvents) := by
  have hf : fetch s.clearEvents = _ := fetch_eq_some h.1
  have hd : decode (wordOfBytes (s.loadByte s.pc.toNat) (s.loadByte (s.pc.toNat + 1))) = .ok i := h.2
  simp [step, hr, runStep, hf, dispatchBytes, hd]

/-- The step of a running block that fetches an unclassified word. -/
theorem step_unclassified {s : State} (hr : s.Running) (h : FetchesUnclassified s) :
    step s = .next ((s.clearEvents.emit (.unknownOpcode (wordAtPc s))).advance 2).tick := by
  obtain ⟨hpc, r, hd⟩ := h
  have hf : fetch s.clearEvents = _ := fetch_eq_some hpc
  have hd : decode (wordOfBytes (s.loadByte s.pc.toNat) (s.loadByte (s.pc.toNat + 1))) = .error r := hd
  simp [step, hr, runStep, hf, dispatchBytes, hd, unclassified, afterDispatch, wordAtPc]

/-- EVERYTHING a step can do: report the recorded fault; raise the fetch fault; report an unclassified
word; or run the fetched instruction. -/
theorem step_cases (s : State) :
    (∃ f, s.fault = some f ∧ step s = .fault f) ∨
    (s.Running ∧ 4095 ≤ s.pc.toNat ∧ step s = .next (s.clearEvents.withFault (.fetchAddress s.pc.toNat))) ∨
    (s.Running ∧ FetchesUnclassified s ∧
      step s = .next ((s.clearEvents.emit (.unknownOpcode (wordAtPc s))).advance 2).tick) ∨
    (∃ i, s.Running ∧ Fetches s i ∧ step s = afterDispatch (exec i s.clearEvents)) := by
  cases hr : s.fault with
  | some f => exact .inl ⟨f, rfl, by simp [step, hr]⟩
  | none =>
    by_cases hpc : 4095 ≤ s.pc.toNat
    · exact .inr (.inl ⟨hr, hpc, step_fetch_fault hr hpc⟩)
    · have hle : s.pc.toNat ≤ 4094 := by omega
      cases hd : decode (wordAtPc s) with
      | error r => exact .inr (.inr (.inl ⟨hr, ⟨hle, r, hd⟩, step_unclassified hr ⟨hle, r, hd⟩⟩))
      | ok i => exact .inr (.inr (.inr ⟨i, hr, ⟨hle, hd⟩, step_fetches hr ⟨hle, hd⟩⟩))

end Sys2Proof.Machine
end

