-- ==== Sys2Proof/Laws/Exec.lean ====
section
/-! SUPPORT. What an instruction can answer, said once for all of them. -/

namespace Sys2Proof.Machine

/-- EVERYTHING an instruction can answer: it completes, leaving the fault, the events, the keys and the
parameters alone, or it takes a fault before its first write. -/
theorem exec_answers (i : Instr) (s : State) :
    (∃ t, exec i s = .next t ∧ t.fault = s.fault ∧ t.events = s.events ∧ t.keys = s.keys ∧ t.cfg = s.cfg) ∨
    ∃ f, exec i s = .next (s.withFault f) := by
  cases i with
  | ret =>
    simp only [exec, execRet, raise]
    split
    · exact .inr ⟨_, rfl⟩
    · exact .inl ⟨_, rfl, rfl, rfl, rfl, rfl⟩
  | call nnn =>
    simp only [exec, execCall, raise]
    split
    · exact .inl ⟨_, rfl, rfl, rfl, rfl, rfl⟩
    · exact .inr ⟨_, rfl⟩
  | drw x y n =>
    simp only [exec, execDrw, raise]
    split
    · exact .inr ⟨_, rfl⟩
    · exact .inl ⟨_, rfl, rfl, rfl, rfl, rfl⟩
  | skp x | sknp x =>
    simp only [exec, execSkp, execSknp, raise]
    split
    · exact .inr ⟨_, rfl⟩
    · exact .inl ⟨_, rfl, rfl, rfl, rfl, rfl⟩
  | ldVxK x =>
    simp only [exec, execLdVxK]
    split <;> exact .inl ⟨_, rfl, rfl, rfl, rfl, rfl⟩
  | ldB x =>
    simp only [exec, execLdB, raise]
    split
    · exact .inr ⟨_, rfl⟩
    · exact .inl ⟨_, rfl, rfl, rfl, rfl, rfl⟩
  | stRegs x =>
    simp only [exec, execStRegs, raise]
    split
    · exact .inr ⟨_, rfl⟩
    · rw [storeRegs_eq]
      exact .inl ⟨_, rfl, rfl, rfl, rfl, rfl⟩
  | ldRegs x =>
    simp only [exec, execLdRegs, raise]
    split
    · exact .inr ⟨_, rfl⟩
    · rw [loadRegs_eq]
      exact .inl ⟨_, rfl, rfl, rfl, rfl, rfl⟩
  | _ => exact .inl ⟨_, rfl, rfl, rfl, rfl, rfl⟩

/-- A word is an instruction or unclassified, not both. -/
theorem Fetches.not_unclassified {s : State} {i : Instr} (h : Fetches s i) : ¬ FetchesUnclassified s := by
  rintro ⟨-, r, hr⟩
  rw [h.2] at hr
  cases hr

/-- A step fetches at most one instruction. -/
theorem Fetches.unique {s : State} {i j : Instr} (hi : Fetches s i) (hj : Fetches s j) : i = j := by
  have := hi.2.symm.trans hj.2
  cases this
  rfl

/-- EVERYTHING a step that answers a next state did: it raised the fetch fault; it reported an
unclassified word and ticked; it completed the fetched instruction and ticked; or that instruction took
a fault. -/
theorem step_next_cases {s t : State} (h : step s = .next t) :
    s.Running ∧
    ((4095 ≤ s.pc.toNat ∧ t = s.clearEvents.withFault (.fetchAddress s.pc.toNat)) ∨
     (FetchesUnclassified s ∧ t = ((s.clearEvents.emit (.unknownOpcode (wordAtPc s))).advance 2).tick) ∨
     (∃ i, Fetches s i ∧
       ((∃ u, exec i s.clearEvents = .next u ∧ u.fault = none ∧ u.events = [] ∧ u.keys = s.keys ∧ u.cfg = s.cfg ∧
           t = u.tick) ∨
        (∃ f, exec i s.clearEvents = .next (s.clearEvents.withFault f) ∧ t = s.clearEvents.withFault f)))) := by
  rcases step_cases s with ⟨f, hf, hs⟩ | ⟨hr, hpc, hs⟩ | ⟨hr, hu, hs⟩ | ⟨i, hr, hf, hs⟩
  · rw [hs] at h; cases h
  · rw [hs] at h; cases h; exact ⟨hr, .inl ⟨hpc, rfl⟩⟩
  · rw [hs] at h; cases h; exact ⟨hr, .inr (.inl ⟨hu, rfl⟩)⟩
  · refine ⟨hr, .inr (.inr ⟨i, hf, ?_⟩)⟩
    rcases exec_answers i s.clearEvents with ⟨u, hu, h1, h2, h3, h4⟩ | ⟨f, hu⟩
    · rw [hs, hu] at h
      have hn : u.fault = none := h1.trans hr
      simp [afterDispatch, hn] at h
      exact .inl ⟨u, hu, hn, h2, h3, h4, h.symm⟩
    · rw [hs, hu] at h
      simp [afterDispatch] at h
      exact .inr ⟨f, hu, h.symm⟩

end Sys2Proof.Machine
end

