-- ==== Sys2Proof/Laws/PerInstr.lean ====
section
/-! SUPPORT. The family Encoding: of each instruction, that its encoded word is a word of its own row of the opcode map. -/

namespace Sys2Proof.Laws.Encoding

/-- The word an instruction is encoded to matches that instruction's row (30_encoding.md R75). -/
def Statement (i : Instr) : Prop := encode i &&& i.mask = i.pattern

theorem cls : Statement .cls := rfl
theorem ret : Statement .ret := rfl
theorem jp (nnn : Addr12) : Statement (.jp nnn) := wordNNN_family ..
theorem call (nnn : Addr12) : Statement (.call nnn) := wordNNN_family ..
theorem seImm (x : RegIx) (nn : Byte) : Statement (.seImm x nn) := wordXNN_family ..
theorem sneImm (x : RegIx) (nn : Byte) : Statement (.sneImm x nn) := wordXNN_family ..
theorem seReg (x : RegIx) (y : RegIx) : Statement (.seReg x y) := wordXYN_family ..
theorem ldImm (x : RegIx) (nn : Byte) : Statement (.ldImm x nn) := wordXNN_family ..
theorem addImm (x : RegIx) (nn : Byte) : Statement (.addImm x nn) := wordXNN_family ..
theorem ldReg (x : RegIx) (y : RegIx) : Statement (.ldReg x y) := wordXYN_selector ..
theorem orReg (x : RegIx) (y : RegIx) : Statement (.orReg x y) := wordXYN_selector ..
theorem andReg (x : RegIx) (y : RegIx) : Statement (.andReg x y) := wordXYN_selector ..
theorem xorReg (x : RegIx) (y : RegIx) : Statement (.xorReg x y) := wordXYN_selector ..
theorem addReg (x : RegIx) (y : RegIx) : Statement (.addReg x y) := wordXYN_selector ..
theorem subReg (x : RegIx) (y : RegIx) : Statement (.subReg x y) := wordXYN_selector ..
theorem shr (x : RegIx) : Statement (.shr x) := wordXYN_selector ..
theorem subnReg (x : RegIx) (y : RegIx) : Statement (.subnReg x y) := wordXYN_selector ..
theorem shl (x : RegIx) : Statement (.shl x) := wordXYN_selector ..
theorem sneReg (x : RegIx) (y : RegIx) : Statement (.sneReg x y) := wordXYN_family ..
theorem ldI (nnn : Addr12) : Statement (.ldI nnn) := wordNNN_family ..
theorem jpV0 (nnn : Addr12) : Statement (.jpV0 nnn) := wordNNN_family ..
theorem rnd (x : RegIx) (nn : Byte) : Statement (.rnd x nn) := wordXNN_family ..
theorem drw (x : RegIx) (y : RegIx) (n : BitVec 4) : Statement (.drw x y n) := wordXYN_family ..
theorem skp (x : RegIx) : Statement (.skp x) := wordXNN_selector ..
theorem sknp (x : RegIx) : Statement (.sknp x) := wordXNN_selector ..
theorem ldVxDT (x : RegIx) : Statement (.ldVxDT x) := wordXNN_selector ..
theorem ldVxK (x : RegIx) : Statement (.ldVxK x) := wordXNN_selector ..
theorem ldDTVx (x : RegIx) : Statement (.ldDTVx x) := wordXNN_selector ..
theorem ldSTVx (x : RegIx) : Statement (.ldSTVx x) := wordXNN_selector ..
theorem addI (x : RegIx) : Statement (.addI x) := wordXNN_selector ..
theorem ldF (x : RegIx) : Statement (.ldF x) := wordXNN_selector ..
theorem ldB (x : RegIx) : Statement (.ldB x) := wordXNN_selector ..
theorem stRegs (x : RegIx) : Statement (.stRegs x) := wordXNN_selector ..
theorem ldRegs (x : RegIx) : Statement (.ldRegs x) := wordXNN_selector ..

end Sys2Proof.Laws.Encoding
end

