-- ==== Sys2Proof/Laws/Updates.lean ====
section
/-! SUPPORT. One lemma per field for the updates that several writes make up: what each leaves unchanged. -/

namespace Sys2Proof.Machine

/-! Flag, then result -/

@[simp] theorem setFlagThenReg_mem (s : State) (flag : Bool) (r : RegIx) (v : Byte) :
    (s.setFlagThenReg flag r v).mem = s.mem := rfl
@[simp] theorem setFlagThenReg_I (s : State) (flag : Bool) (r : RegIx) (v : Byte) :
    (s.setFlagThenReg flag r v).I = s.I := rfl
@[simp] theorem setFlagThenReg_pc (s : State) (flag : Bool) (r : RegIx) (v : Byte) :
    (s.setFlagThenReg flag r v).pc = s.pc := rfl
@[simp] theorem setFlagThenReg_stack (s : State) (flag : Bool) (r : RegIx) (v : Byte) :
    (s.setFlagThenReg flag r v).stack = s.stack := rfl
@[simp] theorem setFlagThenReg_sp (s : State) (flag : Bool) (r : RegIx) (v : Byte) :
    (s.setFlagThenReg flag r v).sp = s.sp := rfl
@[simp] theorem setFlagThenReg_DT (s : State) (flag : Bool) (r : RegIx) (v : Byte) :
    (s.setFlagThenReg flag r v).DT = s.DT := rfl
@[simp] theorem setFlagThenReg_ST (s : State) (flag : Bool) (r : RegIx) (v : Byte) :
    (s.setFlagThenReg flag r v).ST = s.ST := rfl
@[simp] theorem setFlagThenReg_fb (s : State) (flag : Bool) (r : RegIx) (v : Byte) :
    (s.setFlagThenReg flag r v).fb = s.fb := rfl
@[simp] theorem setFlagThenReg_keys (s : State) (flag : Bool) (r : RegIx) (v : Byte) :
    (s.setFlagThenReg flag r v).keys = s.keys := rfl
@[simp] theorem setFlagThenReg_redraw (s : State) (flag : Bool) (r : RegIx) (v : Byte) :
    (s.setFlagThenReg flag r v).redraw = s.redraw := rfl
@[simp] theorem setFlagThenReg_fault (s : State) (flag : Bool) (r : RegIx) (v : Byte) :
    (s.setFlagThenReg flag r v).fault = s.fault := rfl
@[simp] theorem setFlagThenReg_events (s : State) (flag : Bool) (r : RegIx) (v : Byte) :
    (s.setFlagThenReg flag r v).events = s.events := rfl
@[simp] theorem setFlagThenReg_draws (s : State) (flag : Bool) (r : RegIx) (v : Byte) :
    (s.setFlagThenReg flag r v).draws = s.draws := rfl
@[simp] theorem setFlagThenReg_cfg (s : State) (flag : Bool) (r : RegIx) (v : Byte) :
    (s.setFlagThenReg flag r v).cfg = s.cfg := rfl

/-! RND with a given byte -/

@[simp] theorem rndWith_mem (s : State) (b : Byte) (r : RegIx) (nn : Byte) :
    (rndWith b r nn s).mem = s.mem := rfl
@[simp] theorem rndWith_I (s : State) (b : Byte) (r : RegIx) (nn : Byte) :
    (rndWith b r nn s).I = s.I := rfl
@[simp] theorem rndWith_stack (s : State) (b : Byte) (r : RegIx) (nn : Byte) :
    (rndWith b r nn s).stack = s.stack := rfl
@[simp] theorem rndWith_sp (s : State) (b : Byte) (r : RegIx) (nn : Byte) :
    (rndWith b r nn s).sp = s.sp := rfl
@[simp] theorem rndWith_DT (s : State) (b : Byte) (r : RegIx) (nn : Byte) :
    (rndWith b r nn s).DT = s.DT := rfl
@[simp] theorem rndWith_ST (s : State) (b : Byte) (r : RegIx) (nn : Byte) :
    (rndWith b r nn s).ST = s.ST := rfl
@[simp] theorem rndWith_fb (s : State) (b : Byte) (r : RegIx) (nn : Byte) :
    (rndWith b r nn s).fb = s.fb := rfl
@[simp] theorem rndWith_keys (s : State) (b : Byte) (r : RegIx) (nn : Byte) :
    (rndWith b r nn s).keys = s.keys := rfl
@[simp] theorem rndWith_redraw (s : State) (b : Byte) (r : RegIx) (nn : Byte) :
    (rndWith b r nn s).redraw = s.redraw := rfl
@[simp] theorem rndWith_fault (s : State) (b : Byte) (r : RegIx) (nn : Byte) :
    (rndWith b r nn s).fault = s.fault := rfl
@[simp] theorem rndWith_events (s : State) (b : Byte) (r : RegIx) (nn : Byte) :
    (rndWith b r nn s).events = s.events := rfl
@[simp] theorem rndWith_draws (s : State) (b : Byte) (r : RegIx) (nn : Byte) :
    (rndWith b r nn s).draws = s.draws := rfl
@[simp] theorem rndWith_cfg (s : State) (b : Byte) (r : RegIx) (nn : Byte) :
    (rndWith b r nn s).cfg = s.cfg := rfl

/-! The three digits of LD B -/

@[simp] theorem storeBcd_x (s : State) (v : Byte) :
    (s.storeBcd v).x = s.x := rfl
@[simp] theorem storeBcd_I (s : State) (v : Byte) :
    (s.storeBcd v).I = s.I := rfl
@[simp] theorem storeBcd_pc (s : State) (v : Byte) :
    (s.storeBcd v).pc = s.pc := rfl
@[simp] theorem storeBcd_stack (s : State) (v : Byte) :
    (s.storeBcd v).stack = s.stack := rfl
@[simp] theorem storeBcd_sp (s : State) (v : Byte) :
    (s.storeBcd v).sp = s.sp := rfl
@[simp] theorem storeBcd_DT (s : State) (v : Byte) :
    (s.storeBcd v).DT = s.DT := rfl
@[simp] theorem storeBcd_ST (s : State) (v : Byte) :
    (s.storeBcd v).ST = s.ST := rfl
@[simp] theorem storeBcd_fb (s : State) (v : Byte) :
    (s.storeBcd v).fb = s.fb := rfl
@[simp] theorem storeBcd_keys (s : State) (v : Byte) :
    (s.storeBcd v).keys = s.keys := rfl
@[simp] theorem storeBcd_redraw (s : State) (v : Byte) :
    (s.storeBcd v).redraw = s.redraw := rfl
@[simp] theorem storeBcd_fault (s : State) (v : Byte) :
    (s.storeBcd v).fault = s.fault := rfl
@[simp] theorem storeBcd_events (s : State) (v : Byte) :
    (s.storeBcd v).events = s.events := rfl
@[simp] theorem storeBcd_draws (s : State) (v : Byte) :
    (s.storeBcd v).draws = s.draws := rfl
@[simp] theorem storeBcd_cfg (s : State) (v : Byte) :
    (s.storeBcd v).cfg = s.cfg := rfl

/-! The increment of I -/

@[simp] theorem bumpI_mem (s : State) (r : RegIx) :
    (s.bumpI r).mem = s.mem := rfl
@[simp] theorem bumpI_x (s : State) (r : RegIx) :
    (s.bumpI r).x = s.x := rfl
@[simp] theorem bumpI_pc (s : State) (r : RegIx) :
    (s.bumpI r).pc = s.pc := rfl
@[simp] theorem bumpI_stack (s : State) (r : RegIx) :
    (s.bumpI r).stack = s.stack := rfl
@[simp] theorem bumpI_sp (s : State) (r : RegIx) :
    (s.bumpI r).sp = s.sp := rfl
@[simp] theorem bumpI_DT (s : State) (r : RegIx) :
    (s.bumpI r).DT = s.DT := rfl
@[simp] theorem bumpI_ST (s : State) (r : RegIx) :
    (s.bumpI r).ST = s.ST := rfl
@[simp] theorem bumpI_fb (s : State) (r : RegIx) :
    (s.bumpI r).fb = s.fb := rfl
@[simp] theorem bumpI_keys (s : State) (r : RegIx) :
    (s.bumpI r).keys = s.keys := rfl
@[simp] theorem bumpI_redraw (s : State) (r : RegIx) :
    (s.bumpI r).redraw = s.redraw := rfl
@[simp] theorem bumpI_fault (s : State) (r : RegIx) :
    (s.bumpI r).fault = s.fault := rfl
@[simp] theorem bumpI_events (s : State) (r : RegIx) :
    (s.bumpI r).events = s.events := rfl
@[simp] theorem bumpI_draws (s : State) (r : RegIx) :
    (s.bumpI r).draws = s.draws := rfl
@[simp] theorem bumpI_cfg (s : State) (r : RegIx) :
    (s.bumpI r).cfg = s.cfg := rfl

/-! Block store -/

@[simp] theorem storeRegs_x (s : State) (base n : Nat) :
    (s.storeRegs base n).x = s.x := by rw [storeRegs_eq]
@[simp] theorem storeRegs_I (s : State) (base n : Nat) :
    (s.storeRegs base n).I = s.I := by rw [storeRegs_eq]
@[simp] theorem storeRegs_pc (s : State) (base n : Nat) :
    (s.storeRegs base n).pc = s.pc := by rw [storeRegs_eq]
@[simp] theorem storeRegs_stack (s : State) (base n : Nat) :
    (s.storeRegs base n).stack = s.stack := by rw [storeRegs_eq]
@[simp] theorem storeRegs_sp (s : State) (base n : Nat) :
    (s.storeRegs base n).sp = s.sp := by rw [storeRegs_eq]
@[simp] theorem storeRegs_DT (s : State) (base n : Nat) :
    (s.storeRegs base n).DT = s.DT := by rw [storeRegs_eq]
@[simp] theorem storeRegs_ST (s : State) (base n : Nat) :
    (s.storeRegs base n).ST = s.ST := by rw [storeRegs_eq]
@[simp] theorem storeRegs_fb (s : State) (base n : Nat) :
    (s.storeRegs base n).fb = s.fb := by rw [storeRegs_eq]
@[simp] theorem storeRegs_keys (s : State) (base n : Nat) :
    (s.storeRegs base n).keys = s.keys := by rw [storeRegs_eq]
@[simp] theorem storeRegs_redraw (s : State) (base n : Nat) :
    (s.storeRegs base n).redraw = s.redraw := by rw [storeRegs_eq]
@[simp] theorem storeRegs_fault (s : State) (base n : Nat) :
    (s.storeRegs base n).fault = s.fault := by rw [storeRegs_eq]
@[simp] theorem storeRegs_events (s : State) (base n : Nat) :
    (s.storeRegs base n).events = s.events := by rw [storeRegs_eq]
@[simp] theorem storeRegs_draws (s : State) (base n : Nat) :
    (s.storeRegs base n).draws = s.draws := by rw [storeRegs_eq]
@[simp] theorem storeRegs_cfg (s : State) (base n : Nat) :
    (s.storeRegs base n).cfg = s.cfg := by rw [storeRegs_eq]

/-! Block load -/

@[simp] theorem loadRegs_mem (s : State) (base n : Nat) :
    (s.loadRegs base n).mem = s.mem := by rw [loadRegs_eq]
@[simp] theorem loadRegs_I (s : State) (base n : Nat) :
    (s.loadRegs base n).I = s.I := by rw [loadRegs_eq]
@[simp] theorem loadRegs_pc (s : State) (base n : Nat) :
    (s.loadRegs base n).pc = s.pc := by rw [loadRegs_eq]
@[simp] theorem loadRegs_stack (s : State) (base n : Nat) :
    (s.loadRegs base n).stack = s.stack := by rw [loadRegs_eq]
@[simp] theorem loadRegs_sp (s : State) (base n : Nat) :
    (s.loadRegs base n).sp = s.sp := by rw [loadRegs_eq]
@[simp] theorem loadRegs_DT (s : State) (base n : Nat) :
    (s.loadRegs base n).DT = s.DT := by rw [loadRegs_eq]
@[simp] theorem loadRegs_ST (s : State) (base n : Nat) :
    (s.loadRegs base n).ST = s.ST := by rw [loadRegs_eq]
@[simp] theorem loadRegs_fb (s : State) (base n : Nat) :
    (s.loadRegs base n).fb = s.fb := by rw [loadRegs_eq]
@[simp] theorem loadRegs_keys (s : State) (base n : Nat) :
    (s.loadRegs base n).keys = s.keys := by rw [loadRegs_eq]
@[simp] theorem loadRegs_redraw (s : State) (base n : Nat) :
    (s.loadRegs base n).redraw = s.redraw := by rw [loadRegs_eq]
@[simp] theorem loadRegs_fault (s : State) (base n : Nat) :
    (s.loadRegs base n).fault = s.fault := by rw [loadRegs_eq]
@[simp] theorem loadRegs_events (s : State) (base n : Nat) :
    (s.loadRegs base n).events = s.events := by rw [loadRegs_eq]
@[simp] theorem loadRegs_draws (s : State) (base n : Nat) :
    (s.loadRegs base n).draws = s.draws := by rw [loadRegs_eq]
@[simp] theorem loadRegs_cfg (s : State) (base n : Nat) :
    (s.loadRegs base n).cfg = s.cfg := by rw [loadRegs_eq]

end Sys2Proof.Machine
end

