-- ==== Sys2Proof/Tests/Slice0.lean ====
section
/-! SUPPORT. The model's own tests: words written out from 30_encoding.md, ill-formed terms refused, one-step vectors of 95_test_vectors.md, and a witness for the hypotheses of every statement. -/

open Sys2Proof Sys2Proof.Machine

namespace Sys2Proof.Tests

/-! ## Decoding: words written out field by field from the opcode map (30_encoding.md R75, R76) -/

theorem test_decode_family_0 : decode 0b0000_0000_1110_0000 = .ok .cls ∧ decode 0b0000_0000_1110_1110 = .ok .ret := by
  decide

theorem test_decode_jumps_and_skips :
    decode 0b0001_0010_0011_0100 = .ok (.jp 0x234) ∧ decode 0b0010_1011_1100_1101 = .ok (.call 0xBCD) ∧
    decode 0b0011_0011_0100_0010 = .ok (.seImm 3 0x42) ∧ decode 0b0100_0101_1001_0110 = .ok (.sneImm 5 0x96) ∧
    decode 0b0101_0001_0010_0000 = .ok (.seReg 1 2) ∧ decode 0b1001_0011_0100_0000 = .ok (.sneReg 3 4) ∧
    decode 0b1011_0110_0101_0100 = .ok (.jpV0 0x654) := by decide

theorem test_decode_register_immediate :
    decode 0b0110_1010_0010_1111 = .ok (.ldImm 0xA 0x2F) ∧ decode 0b0111_0010_1000_0001 = .ok (.addImm 2 0x81) ∧
    decode 0b1100_0011_0000_1111 = .ok (.rnd 3 0x0F) := by decide

theorem test_decode_family_8 :
    decode 0b1000_0001_0010_0000 = .ok (.ldReg 1 2) ∧ decode 0b1000_0011_0100_0001 = .ok (.orReg 3 4) ∧
    decode 0b1000_0101_0110_0010 = .ok (.andReg 5 6) ∧ decode 0b1000_0111_1000_0011 = .ok (.xorReg 7 8) ∧
    decode 0b1000_1010_1011_0100 = .ok (.addReg 0xA 0xB) ∧ decode 0b1000_1100_1101_0101 = .ok (.subReg 0xC 0xD) ∧
    decode 0b1000_1110_1111_0110 = .ok (.shr 0xE) ∧ decode 0b1000_0001_1111_0111 = .ok (.subnReg 1 0xF) ∧
    decode 0b1000_0100_0011_1110 = .ok (.shl 4) := by decide

theorem test_decode_index_and_display :
    decode 0b1010_0010_1111_0000 = .ok (.ldI 0x2F0) ∧ decode 0b1101_0001_0010_0011 = .ok (.drw 1 2 3) := by decide

theorem test_decode_families_E_and_F :
    decode 0b1110_0010_1001_1110 = .ok (.skp 2) ∧ decode 0b1110_0011_1010_0001 = .ok (.sknp 3) ∧
    decode 0b1111_0100_0000_0111 = .ok (.ldVxDT 4) ∧ decode 0b1111_0101_0000_1010 = .ok (.ldVxK 5) ∧
    decode 0b1111_0110_0001_0101 = .ok (.ldDTVx 6) ∧ decode 0b1111_0111_0001_1000 = .ok (.ldSTVx 7) ∧
    decode 0b1111_1000_0001_1110 = .ok (.addI 8) ∧ decode 0b1111_1001_0010_1001 = .ok (.ldF 9) ∧
    decode 0b1111_1010_0011_0011 = .ok (.ldB 0xA) ∧ decode 0b1111_1011_0101_0101 = .ok (.stRegs 0xB) ∧
    decode 0b1111_1100_0110_0101 = .ok (.ldRegs 0xC) := by decide

/-- Unclassified words of 95_test_vectors.md S1 to S5. -/
theorem test_decode_refuses_unclassified_words :
    ([0x0005, 0x8AB8, 0xF166, 0xE1FF, 0x801F] : List Word).all (fun w => decode w == .error (.unclassified w)) = true := by
  decide

/-- R85, and P3 and P4 of 95_test_vectors.md: the ignored bits as the assembler writes them. -/
theorem test_encode :
    encode .cls = 0x00E0 ∧ encode .ret = 0x00EE ∧ encode (.seReg 1 2) = 0x5120 ∧ encode (.shr 0xE) = 0x8E06 ∧
    encode (.drw 1 2 3) = 0xD123 ∧ encode (.ldRegs 0xC) = 0xFC65 ∧
    encodeBytes (.jp 0x234) = [0x12, 0x34] := by decide

theorem test_decode_bytes :
    decodeBytes [0x00, 0xE0, 0xA2] = .ok (.cls, [0xA2]) ∧ (decodeBytes [0x12]).toOption = none := by decide

theorem test_decodeTableWord :
    decodeTableWord 16 0xD123 = some (.drw 1 2 3) ∧ decodeTableWord 16 0x8AB8 = none := by decide

/-! ## Well-formedness: an ill-formed term for each check -/

/-- R85: words with an ignored bit set are not the assembler's. -/
theorem test_canonicalWord_refuses :
    canonicalWord 0x0120 = false ∧ canonicalWord 0x5125 = false ∧ canonicalWord 0x8016 = false ∧
    canonicalWord 0x8010 = true ∧ canonicalWord 0x00EE = true := by decide

/-- R244: a program of 3585 bytes does not fit, one of 3584 does. -/
theorem test_programFits_refuses :
    programFits (List.replicate 3585 0) = false ∧ programFits (List.replicate 3584 0) = true := by
  simp only [programFits, List.length_replicate]
  decide

/-! ## One step: vectors of 95_test_vectors.md -/

/-- A running block with some general registers set. -/
def withRegs (l : List (RegIx × Byte)) (s : State) : State := l.foldl (fun s c => s.setReg c.1 c.2) s

/-- The block of the vectors: initialized, some registers set, the word under test where step fetches. -/
def block (w : Nat) (l : List (RegIx × Byte)) : State := (withRegs l State.reset).withFetchWord 16 w

/-- What a step of `s` leaves satisfies `p`. -/
def after (s : State) (p : State → Bool) : Bool :=
  match step s with
  | .next t => p t
  | _ => false

/-- What an instruction leaves satisfies `p`. -/
def ran (i : Instr) (s : State) (p : State → Bool) : Bool :=
  match exec i s with
  | .next t => p t
  | _ => false

/-- The step takes fault `f` with pc kept. -/
def traps (s : State) (f : Fault) : Bool :=
  after s fun t => t.fault == some f && t.events == [.fault f] && t.pc == s.pc && t.mem == s.mem && t.x == s.x

/-- S1, W12: UnknownOpcode. -/
theorem test_unclassified : after (block 0x0005 []) (fun t => t.pc == 0x202 && t.events == [.unknownOpcode 0x0005] && t.fault == none) = true := by
  decide
/-- S6 -/
theorem test_unclassified_ticks : after { block 0x0005 [] with DT := 1, ST := 1 }
    (fun t => t.pc == 0x202 && t.DT == 0 && t.ST == 0 && t.events == [.unknownOpcode 0x0005, .tone]) = true := by decide
/-- S7 -/
theorem test_fetch_at_4094 : after ({ State.reset with pc := 4094 }.withFetchWord 16 0x6000) (fun t => t.pc == 0x1000 && t.reg 0 == 0) = true := by
  decide
/-- S8 -/
theorem test_fetch_at_4095 : traps { State.reset with pc := 4095 } (.fetchAddress 4095) = true := by decide
/-- S9 -/
theorem test_fetch_at_odd_pc : after ({ State.reset with pc := 0x201 }.withFetchWord 16 0x6000) (fun t => t.pc == 0x203 && t.events == []) = true := by
  decide
/-- S10 -/
theorem test_faulted_block : step { State.reset with fault := some (.fetchAddress 4095) } = .fault (.fetchAddress 4095) := by rfl

/-- S11, S12, DR1 -/
theorem test_cls : after { block 0x0120 [] with fb := 0x8000_0001 } (fun t => t.pc == 0x202 && t.redraw && t.fb == 0) = true := by
  decide +kernel
/-- S13 -/
theorem test_ret : ran .ret { State.reset with pc := 0x400, sp := 2, stack := (Vector.replicate 16 0).set 1 0x302 }
    (fun t => t.pc == 0x304 && t.sp == 1) = true := by decide
/-- CT2 -/
theorem test_ret_underflow : traps ({ State.reset with pc := 0x300 }.withFetchWord 16 0x00EE) (.stackUnderflow 0x300) = true := by decide
/-- CT3 -/
theorem test_jp : after (block 0x1234 []) (fun t => t.pc == 0x234) = true := by decide
/-- CT7 -/
theorem test_call : after ({ State.reset with pc := 0x202, sp := 15 }.withFetchWord 16 0x2300)
    (fun t => t.pc == 0x300 && t.sp == 16 && t.stack[15] == 0x202) = true := by decide
/-- CT8 -/
theorem test_call_overflow : traps ({ State.reset with pc := 0x202, sp := 16 }.withFetchWord 16 0x2300) (.stackOverflow 0x202) = true := by
  decide
/-- CT9, CT10 -/
theorem test_se_imm : after (block 0x3342 [(3, 0x42)]) (fun t => t.pc == 0x204) = true ∧ after (block 0x3342 [(3, 0x41)]) (fun t => t.pc == 0x202) = true := by
  decide
/-- CT11, CT12 -/
theorem test_sne_imm : after (block 0x4342 [(3, 0x42)]) (fun t => t.pc == 0x202) = true ∧ after (block 0x4342 [(3, 0x41)]) (fun t => t.pc == 0x204) = true := by
  decide
/-- CT14, CT15 -/
theorem test_se_reg : after (block 0x5125 [(1, 7), (2, 7)]) (fun t => t.pc == 0x204) = true ∧ after (block 0x5120 [(1, 7), (2, 8)]) (fun t => t.pc == 0x202) = true := by
  decide
/-- CT17, CT19 -/
theorem test_sne_reg : after (block 0x9120 [(1, 7), (2, 8)]) (fun t => t.pc == 0x204) = true ∧ after (block 0x912F [(1, 7), (2, 7)]) (fun t => t.pc == 0x202) = true := by
  decide
/-- CT20 (W10), CT21 -/
theorem test_jp_v0 : after (block 0xB300 [(0, 0x10)]) (fun t => t.pc == 0x310) = true ∧ after (block 0xBFFF [(0, 0xFF)]) (fun t => t.pc == 0x10FE) = true := by
  decide

/-- A1 -/
theorem test_ld_imm : after (block 0x6A2F []) (fun t => t.reg 0xA == 0x2F && t.pc == 0x202) = true := by decide
/-- A4 -/
theorem test_add_imm_wraps : after (block 0x7201 [(2, 0xFF), (0xF, 5)]) (fun t => t.reg 2 == 0 && t.reg 0xF == 5) = true := by decide
/-- A7 -/
theorem test_ld_reg : after (block 0x8010 [(1, 0x33)]) (fun t => t.reg 0 == 0x33 && t.reg 1 == 0x33) = true := by decide
/-- A9 -/
theorem test_or : after (block 0x8011 [(0, 0xF0), (1, 0x0F), (0xF, 7)]) (fun t => t.reg 0 == 0xFF && t.reg 0xF == 7) = true := by decide
/-- A10 -/
theorem test_and : after (block 0x8012 [(0, 0xF0), (1, 0x3C)]) (fun t => t.reg 0 == 0x30) = true := by decide
/-- A11 -/
theorem test_xor : after (block 0x8013 [(0, 0xF0), (1, 0x3C)]) (fun t => t.reg 0 == 0xCC) = true := by decide
/-- A13 (W2) -/
theorem test_add : after (block 0x8014 [(0, 200), (1, 100)]) (fun t => t.reg 0 == 0x2C && t.reg 0xF == 1 && t.pc == 0x202) = true := by decide
/-- A17 -/
theorem test_add_into_flag : after (block 0x8F14 [(0xF, 0x80), (1, 0x90)]) (fun t => t.reg 0xF == 0x10) = true := by decide
/-- A20 (W3), A22 -/
theorem test_sub : after (block 0x8015 [(0, 5), (1, 10)]) (fun t => t.reg 0 == 0xFB && t.reg 0xF == 0) = true ∧
    after (block 0x8015 [(0, 7), (1, 7)]) (fun t => t.reg 0 == 0 && t.reg 0xF == 1) = true := by decide
/-- A24 -/
theorem test_sub_into_flag : after (block 0x8F15 [(0xF, 3), (1, 5)]) (fun t => t.reg 0xF == 0xFE) = true := by decide
/-- A29 -/
theorem test_shr : after (block 0x8016 [(0, 2), (1, 0xFF)]) (fun t => t.reg 0 == 1 && t.reg 0xF == 0) = true := by decide
/-- A28 -/
theorem test_shr_of_flag : after (block 0x8F06 [(0xF, 3)]) (fun t => t.reg 0xF == 1) = true := by decide
/-- A30, A31 -/
theorem test_subn : after (block 0x8017 [(0, 10), (1, 5)]) (fun t => t.reg 0 == 0xFB && t.reg 0xF == 0) = true ∧
    after (block 0x8017 [(0, 5), (1, 10)]) (fun t => t.reg 0 == 5 && t.reg 0xF == 1) = true := by decide
/-- A34 -/
theorem test_shl : after (block 0x840E [(4, 0x81)]) (fun t => t.reg 4 == 2 && t.reg 0xF == 1) = true := by decide
/-- A38 -/
theorem test_shl_of_flag : after (block 0x8FFE [(0xF, 0x81)]) (fun t => t.reg 0xF == 2) = true := by decide
/-- A39, A40, A41: the random byte is 0xB7. -/
theorem test_rnd : (rndWith 0xB7 3 0x0F State.reset).reg 3 = 0x07 ∧ (rndWith 0xB7 3 0x00 State.reset).reg 3 = 0 ∧
    (rndWith 0xB7 3 0xFF State.reset).reg 3 = 0xB7 := by decide

/-- M1 -/
theorem test_ld_i : after (block 0xA2F0 []) (fun t => t.I == 0x2F0) = true := by decide
/-- M3, M4 -/
theorem test_add_i : after ((block 0xF51E [(5, 1)]).setI 0xFFFF) (fun t => t.I == 0) = true ∧
    after ((block 0xF51E [(5, 1), (0xF, 9)]).setI 0x0FFF) (fun t => t.I == 0x1000 && t.reg 0xF == 9) = true := by decide
/-- M5, M7 -/
theorem test_ld_f : after (block 0xF029 [(0, 0xA)]) (fun t => t.I == 50) = true ∧ after (block 0xF029 [(0, 0xFF)]) (fun t => t.I == 1275) = true := by
  decide
/-- M8 (W11) -/
theorem test_ld_b : after ((block 0xF033 [(0, 194)]).setI 0x300)
    (fun t => t.loadByte 0x300 == 1 && t.loadByte 0x301 == 9 && t.loadByte 0x302 == 4 && t.I == 0x300) = true := by decide
/-- M12, M13, M13a, M13b -/
theorem test_ld_b_faults : traps ((block 0xF033 [(0, 7)]).setI 4094) (.dataAddress 4096) = true ∧
    traps ((block 0xF033 [(0, 7)]).setI 0x40) (.fontWrite 0x40) = true ∧
    after { (block 0xF033 [(0, 7)]).setI 0x40 with cfg := { defaultConfig with fontWrite := .allow } }
      (fun t => t.loadByte 0x40 == 0 && t.loadByte 0x41 == 0 && t.loadByte 0x42 == 7) = true ∧
    traps ((block 0xF033 [(0, 7)]).setI 0xFFFF) (.dataAddress 65535) = true := by decide
/-- M16 -/
theorem test_st_regs : after ((block 0xFF55 [(0, 1), (0xF, 0xEE)]).setI 4080)
    (fun t => t.loadByte 4080 == 1 && t.loadByte 4081 == 0 && t.loadByte 4095 == 0xEE && t.I == 0x1000) = true := by decide
/-- M17, M18 -/
theorem test_st_regs_faults : traps ((block 0xFF55 []).setI 4081) (.dataAddress 4096) = true ∧
    traps ((block 0xF155 []).setI 78) (.fontWrite 78) = true := by decide
/-- M20, M21 -/
theorem test_ld_regs : after (((block 0xFF65 [(0, 3)]).setI 4080).storeByte 4095 0x5A)
      (fun t => t.reg 0 == 0 && t.reg 0xF == 0x5A && t.I == 0x1000) = true ∧
    after (block 0xF465 []) (fun t => [0, 1, 2, 3, 4].map t.reg == [0xF0, 0x90, 0x90, 0x90, 0xF0] && t.I == 5) = true := by
  decide
/-- M22 -/
theorem test_ld_regs_faults : traps ((block 0xF165 []).setI 4095) (.dataAddress 4096) = true := by decide

/-- The block of the display vectors: I = 0x300 and one sprite row there. -/
def sprite (w : Nat) (row : Byte) (l : List (RegIx × Byte)) : State := ((block w l).setI 0x300).storeByte 0x300 row

/-- DR3: the sprite wraps round the right edge, of the last row. -/
theorem test_drw_wraps : after (sprite 0xD011 0xC0 [(0, 63), (1, 31)])
    (fun t => pixel t.fb 63 31 && pixel t.fb 0 31 && !pixel t.fb 62 31 && t.reg 0xF == 0 && t.redraw) = true := by decide +kernel
/-- DR6: a collision clears the pixel and sets the flag. -/
theorem test_drw_collides : after { sprite 0xD011 0x10 [(0, 0), (1, 5)] with fb := BitVec.twoPow 2048 (5 * 64 + 3) }
    (fun t => !pixel t.fb 3 5 && t.reg 0xF == 1 && t.pc == 0x202) = true := by decide +kernel
/-- DR8: the old VF is the x coordinate. -/
theorem test_drw_at_flag : after (sprite 0xDF01 0x80 [(0xF, 10), (0, 2)])
    (fun t => pixel t.fb 10 2 && t.reg 0xF == 0) = true := by decide +kernel
/-- DR9 -/
theorem test_drw_faults : traps (((block 0xD012 []).setI 4095).storeByte 4095 0xFF) (.dataAddress 4096) = true := by decide

/-- The key cells with one key pressed. -/
def oneKey (k : Nat) (h : k < 16) : Vector Byte 16 := (Vector.replicate 16 0).set k 1

/-- T1, T3 -/
theorem test_skp : after { block 0xE29E [(2, 5)] with keys := oneKey 5 (by decide) } (fun t => t.pc == 0x204) = true ∧
    traps (block 0xE29E [(2, 16)]) (.keyNumber 16) = true := by decide
/-- T5, T4 -/
theorem test_sknp : after { block 0xE2A1 [(2, 5)] with keys := oneKey 5 (by decide) } (fun t => t.pc == 0x202) = true ∧
    after (block 0xE2A1 [(2, 5)]) (fun t => t.pc == 0x204) = true := by decide
/-- T7 -/
theorem test_ld_k_waits : step (block 0xF40A []) = .next (block 0xF40A []) := by rfl
/-- T8 -/
theorem test_ld_k : after { block 0xF40A [] with keys := (oneKey 9 (by decide)).set 3 1 } (fun t => t.reg 4 == 3 && t.pc == 0x202) = true := by
  decide
/-- T10 -/
theorem test_ld_vx_dt : after ((block 0xF307 []).setDT 0x10) (fun t => t.reg 3 == 0x10 && t.DT == 0x0F) = true := by decide
/-- T13, T14 -/
theorem test_ld_dt_vx : after (block 0xF115 [(1, 60)]) (fun t => t.DT == 59) = true ∧ after ((block 0xF115 []).setDT 5) (fun t => t.DT == 0) = true := by
  decide
/-- T16 -/
theorem test_ld_st_vx_tone : after (block 0xF118 [(1, 1)]) (fun t => t.ST == 0 && t.events == [.tone]) = true := by decide
/-- T19 -/
theorem test_ld_st_vx : after ((block 0xF118 [(1, 2)]).setST 1) (fun t => t.ST == 1 && t.events == []) = true := by decide

/-! ## Witnesses: for every statement with hypotheses, a state and operands that meet them, clause by clause -/

/-- A running block that is not the one after reset: a program byte differs from its reset contents, and one
stack entry is in use. -/
def used : State := { block 0x8014 [(0, 200), (1, 100)] with sp := 1, stack := (Vector.replicate 16 0).set 0 0x204 }

theorem witness_DecodeInvertsEncode : Instr.WellFormed (.drw 15 15 15) := by decide
theorem witness_decoding : decode 0x8AB4 = .ok (.addReg 0xA 0xB) := by decide
/-- Two different words with one routing key, and the two alternatives of the first clause. -/
theorem witness_EveryWordSelectsOneRowOrNone :
    routingKey 0x0A1E = routingKey 0x00EE ∧ (0x0A1E : Word) &&& Instr.mask .ret = Instr.pattern .ret ∧
    decode 0x8AB8 = .error (.unclassified 0x8AB8) := by decide
/-- One word for each family that has unclassified words, at a boundary of its selectors, and one beside it. -/
theorem witness_UnclassifiedWordsByFamily :
    decode 0x000D = .error (.unclassified 0x000D) ∧ decode 0x000F = .error (.unclassified 0x000F) ∧
    decode 0x800F = .error (.unclassified 0x800F) ∧ decode 0x8008 = .error (.unclassified 0x8008) ∧
    decode 0xE09F = .error (.unclassified 0xE09F) ∧ decode 0xF066 = .error (.unclassified 0xF066) ∧
    decode 0x800E = .ok (.shl 0) := by decide
theorem witness_IgnoredBitsDoNotMatter :
    (0x0FFE : Word) &&& ~~~ ignoredBits 0x00EE = 0x00EE &&& ~~~ ignoredBits 0x00EE ∧ decode 0x00EE = .ok .ret := by decide
/-- Words of the rows of the four masks that `DecodesAs` is stated with. -/
theorem witness_DecodesAs :
    (0x1234 : Word) &&& 0xF000 = 0x1000 ∧ (0x8AB4 : Word) &&& 0xF00F = 0x8004 ∧ (0xF165 : Word) &&& 0xF0FF = 0xF065 ∧
    (0x0A1E : Word) &&& 0xF00F = 0x000E := by decide

theorem witness_StepRunsTheDecodedInstruction :
    used.Running ∧ used.pc.toNat ≤ 4094 ∧
    decode (wordOfBytes (used.loadByte used.pc.toNat) (used.loadByte (used.pc.toNat + 1))) = .ok (.addReg 0 1) ∧
    Instr.WellFormed (.addReg 0 1) ∧ ∃ t, exec (.addReg 0 1) used.clearEvents = .next t :=
  ⟨rfl, by decide, by decide, by decide, _, rfl⟩
/-- The fetch bound at 4095, at the largest pc a run reaches, and at 4094. -/
theorem witness_FetchBound : ∃ s s' s'' : State, s.Running ∧ s'.Running ∧ s''.Running ∧ s.pc.toNat = 4095 ∧ s'.pc.toNat = 0x10FE ∧
    s''.pc.toNat = 4094 ∧ ∃ t, step s'' = .next t :=
  ⟨{ State.reset with pc := 4095 }, { State.reset with pc := 0x10FE }, { State.reset with pc := 4094 }, rfl, rfl, rfl, rfl, rfl, rfl, _, rfl⟩
theorem witness_UnclassifiedWordIsReported : (block 0x8AB8 []).Running ∧ FetchesUnclassified (block 0x8AB8 []) :=
  ⟨rfl, by decide, .unclassified 0x8AB8, by decide⟩
theorem witness_FaultedBlockHasNoStep : { State.reset with fault := some (.keyNumber 16) }.fault = some (.keyNumber 16) := rfl
theorem witness_RunningBlockAlwaysSteps : State.reset.Running ∧ used.Running := ⟨rfl, rfl⟩
/-- Dispatch without a fault, and with one. -/
theorem witness_TimersTickOncePerCompletedStep :
    (∃ hi lo u, used.Running ∧ fetch used = some (hi, lo) ∧ dispatchBytes hi lo used.clearEvents = .next u ∧ u.fault = none) ∧
    (∃ hi lo u, State.Running (block 0xE29E [(2, 16)]) ∧ fetch (block 0xE29E [(2, 16)]) = some (hi, lo) ∧
      dispatchBytes hi lo (block 0xE29E [(2, 16)]).clearEvents = .next u ∧ u.fault ≠ none) :=
  ⟨⟨_, _, _, rfl, rfl, rfl, rfl⟩, _, _, _, rfl, rfl, rfl, by decide⟩
/-- A step of `used`, which completes: the premise of the statements about every step. -/
theorem witness_a_step_that_completes : ∃ t, step used = .next t ∧ t.fault = none ∧ Fetches used (.addReg 0 1) :=
  ⟨_, rfl, rfl, by decide, by decide⟩
/-- The five kinds of event list of a step. -/
theorem witness_EventsOfAStep :
    after used (fun t => t.events == []) = true ∧ after { used with ST := 1 } (fun t => t.events == [.tone]) = true ∧
    after (block 0x0005 []) (fun t => t.events == [.unknownOpcode 5]) = true ∧
    after { block 0x0005 [] with ST := 1 } (fun t => t.events == [.unknownOpcode 5, .tone]) = true ∧
    after { State.reset with pc := 4095 } (fun t => t.events == [.fault (.fetchAddress 4095)]) = true := by decide
theorem witness_FaultsArePrecise : ∃ t, step { State.reset with pc := 4095 } = .next t ∧ t.fault = some (.fetchAddress 4095) := ⟨_, rfl, rfl⟩
/-- Each of the six faults raised by a step, at the boundary of its cause where the cause has one. -/
theorem witness_FaultCauses :
    traps { State.reset with pc := 4095 } (.fetchAddress 4095) = true ∧
    traps ((block 0xD012 []).setI 4095) (.dataAddress 4096) = true ∧
    traps ((block 0xF033 []).setI 4094) (.dataAddress 4096) = true ∧
    traps ((block 0xF155 []).setI 4095) (.dataAddress 4096) = true ∧
    traps ((block 0xF165 []).setI 4095) (.dataAddress 4096) = true ∧
    traps (block 0xE29E [(2, 16)]) (.keyNumber 16) = true ∧ traps (block 0xE2A1 [(2, 255)]) (.keyNumber 255) = true ∧
    traps ((block 0xF033 []).setI 79) (.fontWrite 79) = true ∧ traps ((block 0xF055 []).setI 0) (.fontWrite 0) = true ∧
    traps { block 0x2300 [] with sp := 16 } (.stackOverflow 0x200) = true ∧
    traps (block 0x00EE []) (.stackUnderflow 0x200) = true := by decide
/-- The key wait with no key, and the self-jump at 0x200. -/
theorem witness_WaitingChangesOnlyTheTimers :
    ((block 0xF40A []).Running ∧ Fetches (block 0xF40A []) (.ldVxK 4) ∧ ∀ k : Fin 16, (block 0xF40A []).keys[k] = 0) ∧
    ((block 0x1200 []).Running ∧ Fetches (block 0x1200 []) (.jp 0x200) ∧ (block 0x1200 []).pc.toNat = (0x200 : Addr12).toNat) :=
  ⟨⟨rfl, ⟨by decide, by decide⟩, by decide⟩, rfl, ⟨by decide, by decide⟩, by decide⟩

theorem witness_StepKeepsInvariant : Inv used ∧ ∃ t, step used = .next t :=
  ⟨⟨by decide, by decide, by decide, fun _ => by decide⟩, _, rfl⟩
/-- A program of two bytes is loaded over `used`. -/
theorem witness_HostActionsKeepInvariant : ∃ t, load [0x60, 0x05] used = .loaded t := ⟨_, rfl⟩
theorem witness_FontTableNeverAltered : used.cfg.fontWrite = .fault ∧ ∃ t, step used = .next t := ⟨rfl, _, rfl⟩
/-- Steps that write the frame buffer (CLS and DRW), the stack (CALL) and the stack pointer (CALL and RET). -/
theorem witness_WhoWritesDisplayStackAndKeys :
    after { block 0x00E0 [] with fb := 1 } (fun t => t.fb != 1 && t.redraw) = true ∧
    after (sprite 0xD011 0x80 []) (fun t => t.fb != 0 && t.redraw) = true ∧
    after (block 0x2300 []) (fun t => t.stack != (block 0x2300 []).stack && t.sp == 1) = true ∧
    after { block 0x00EE [] with sp := 1 } (fun t => t.sp == 0) = true := by decide +kernel
/-- An instruction and a register it may not write, one that writes none, and a step that fetches none. -/
theorem witness_RegistersWrittenAreThoseOfTheTable :
    (Fetches used (.addReg 0 1) ∧ mayWriteReg (.addReg 0 1) 1 = false ∧ mayWriteReg (.addReg 0 1) 0xF = true) ∧
    mayWriteReg (.jp 0x300) 0 = false ∧ ∃ t, step (block 0x0005 []) = .next t ∧ decode (wordAtPc (block 0x0005 [])) = .error (.unclassified 5) :=
  ⟨⟨⟨by decide, by decide⟩, by decide, by decide⟩, by decide, _, rfl, by decide⟩
/-- Registers not read: beside the operands, above X of a store, and one that is only written. -/
theorem witness_RegistersReadAreThoseOfTheTable :
    mayReadReg (.addReg 0 1) 0xF = false ∧ mayReadReg (.stRegs 3) 4 = false ∧ mayReadReg (.ldRegs 3) 3 = false ∧
    ∃ t, exec (.addReg 0 1) used = .next t := ⟨by decide, by decide, by decide, _, rfl⟩
/-- Another call stack that agrees with that of `used` on its one entry in use. -/
theorem witness_StaleStackEntriesAreUnobservable :
    (∀ j : Fin 16, j.val < used.sp.val → ((Vector.replicate 16 7).set 0 0x204 : Vector Word 16)[j] = used.stack[j]) ∧
    ∃ t, step used = .next t := ⟨by decide, _, rfl⟩
theorem witness_SoundTimerIsReadByNoInstruction : ∃ t, exec (.ldVxDT 3) used = .next t := ⟨_, rfl⟩
theorem witness_KeysAreReadOnlyByKeyInstructions :
    (∀ x, Instr.addReg 0 1 ≠ .skp x ∧ Instr.addReg 0 1 ≠ .sknp x ∧ Instr.addReg 0 1 ≠ .ldVxK x) ∧
    ∃ t, exec (.addReg 0 1) used = .next t := ⟨by decide, _, rfl⟩

theorem witness_ValuesAfterInitialization : ∃ t, load [0x60, 0x05] (State.initial defaultConfig) = .loaded t := ⟨_, rfl⟩
/-- The loader's boundary: 3585 bytes, and 3584. -/
theorem witness_LoaderContract :
    3584 < (List.replicate 3585 (0 : Byte)).length ∧ (List.replicate 3584 (0 : Byte)).length ≤ 3584 := by
  simp only [List.length_replicate]; decide

/-- Two memories in canonical form that read alike. -/
theorem witness_CanonicalMemoryIsUnique :
    Memory.wf defaultConfig [(512, 1), (4095, 2)] ∧
    ∀ a, Memory.load defaultConfig [(512, 1), (4095, 2)] a = Memory.load defaultConfig (Memory.store defaultConfig [(4095, 2)] 512 1) a :=
  ⟨by decide, fun _ => rfl⟩
/-- A check passed at the top of memory, one failed there by one byte, and one failed on the last font byte. -/
theorem witness_CheckedAccessesNeverFault :
    checkRange used 80 4095 .write = none ∧ checkRange used 4095 4096 .read = some (.dataAddress 4096) ∧
    checkRange used 79 80 .write = some (.fontWrite 79) ∧ checkRange used 0 79 .read = none := by decide
/-- LD [I],V3 at 0x200 with I = 0x200 stores over itself and the next instruction. -/
theorem witness_StoreIsSeenByTheNextFetch :
    Fetches ((block 0xF355 []).setI 0x200) (.stRegs 3) ∧
    (∃ t, step ((block 0xF355 []).setI 0x200) = .next t ∧ t.fault = none) ∧
    ((block 0xF355 []).setI 0x200).I.toNat ≤ ((block 0xF355 []).setI 0x200).pc.toNat + 2 ∧
    ((block 0xF355 []).setI 0x200).pc.toNat + 3 ≤ ((block 0xF355 []).setI 0x200).I.toNat + (3 : RegIx).toNat :=
  ⟨⟨by decide, by decide⟩, ⟨_, rfl, rfl⟩, by decide, by decide⟩

/-- RET with one entry, with sixteen, and with none; its landing past the fetch bound. -/
theorem witness_ReturnPopsTheStack :
    used.sp.val = (0 : Fin 16).val + 1 ∧ { used with sp := 16 }.sp.val = (15 : Fin 16).val + 1 ∧ State.reset.sp.val = 0 ∧
    ran .ret { used with stack := Vector.replicate 16 4094 } (fun t => 4094 < t.pc.toNat) = true := by decide
/-- CALL with fifteen entries, and with sixteen. -/
theorem witness_CallPushesItsAddress : { used with sp := 15 }.sp.val < 16 ∧ { used with sp := 16 }.sp.val = 16 := by decide
/-- Jumps to 4095 and above. -/
theorem witness_JumpsSetTheProgramCounter :
    ran (.jp 0xFFF) used (fun t => 4095 ≤ t.pc.toNat) = true ∧ ran (.jpV0 0xFFF) used (fun t => 4095 ≤ t.pc.toNat) = true := by decide
theorem witness_ReturnAfterCallComesBack : used.sp.val < 16 ∧ ∃ t, exec (.call 0x300) used = .next t := ⟨by decide, _, rfl⟩
/-- Flag-setting operations on a register that is not VF. -/
theorem witness_flag_is_not_the_result : (0xE : RegIx) ≠ VF := by decide
/-- LD B at the top of memory, just past it, at the first byte past the font, at its last byte, and with FONT_WRITE = allow. -/
theorem witness_StoreBcd :
    ((used.setI 4093).I.toNat + 2 ≤ 4095 ∧ 80 ≤ (used.setI 4093).I.toNat) ∧ 4095 < (used.setI 4094).I.toNat + 2 ∧
    ((used.setI 80).I.toNat + 2 ≤ 4095 ∧ 80 ≤ (used.setI 80).I.toNat) ∧ ((used.setI 79).I.toNat < 80 ∧ (used.setI 79).cfg.fontWrite = .fault) ∧
    (({ used with cfg := { defaultConfig with fontWrite := .allow } }).I.toNat + 2 ≤ 4095 ∧
      { used with cfg := { defaultConfig with fontWrite := .allow } }.cfg.fontWrite = .allow) := by decide
/-- LD [I],VF at the top of memory and just past it, and LD [I],V0 beside and in the font. -/
theorem witness_StoreRegisters :
    ((used.setI 4080).I.toNat + (15 : RegIx).toNat ≤ 4095 ∧ 80 ≤ (used.setI 4080).I.toNat ∧ (15 : RegIx) ≤ 15) ∧
    4095 < (used.setI 4081).I.toNat + (15 : RegIx).toNat ∧
    ((used.setI 80).I.toNat + (0 : RegIx).toNat ≤ 4095 ∧ 80 ≤ (used.setI 80).I.toNat) ∧
    ((used.setI 79).I.toNat < 80 ∧ (used.setI 79).cfg.fontWrite = .fault) := by decide
theorem witness_LoadRegisters :
    (used.setI 4080).I.toNat + (15 : RegIx).toNat ≤ 4095 ∧ 4095 < (used.setI 4081).I.toNat + (15 : RegIx).toNat ∧
    (used.setI 0).I.toNat + (4 : RegIx).toNat ≤ 4095 := by decide
theorem witness_DumpThenLoadRoundTrips : ∃ s t u : State, s.Running ∧ exec (.stRegs 1) s = .next t ∧ t.Running ∧
    u.mem = t.mem ∧ u.cfg = t.cfg ∧ u.I = s.I ∧ s.I = 0x300 :=
  ⟨used.setI 0x300, _, used.setI 0x300 |>.storeRegs 0x300 2, rfl, rfl, rfl, rfl, rfl, rfl, rfl⟩
/-- DRW with N = 0 anywhere, with its last row at 4095, and with its last row past it. -/
theorem witness_DrawIsPixelwiseXor :
    (0 : BitVec 4).toNat = 0 ∧ (used.setI 4081).I.toNat + (15 : BitVec 4).toNat - 1 ≤ 4095 ∧
    (0 < (15 : BitVec 4).toNat ∧ 4095 < (used.setI 4082).I.toNat + (15 : BitVec 4).toNat - 1) := by decide
theorem witness_DrawTwiceRestores : (0 : RegIx) ≠ VF ∧ (1 : RegIx) ≠ VF ∧ used.Running ∧
    (∃ t, exec (.drw 0 1 5) used = .next t ∧ t.Running) ∧ used.fb = 0 := ⟨by decide, by decide, rfl, ⟨_, rfl, rfl⟩, rfl⟩
/-- Keys 0 and 15, and the first number that is no key. -/
theorem witness_SkipsOnKey : ((block 0xE29E [(2, 0)]).reg 2).toNat < 16 ∧ ((block 0xE29E [(2, 15)]).reg 2).toNat < 16 ∧
    15 < ((block 0xE29E [(2, 16)]).reg 2).toNat := by decide
/-- No key pressed; key 3 the least pressed; key 15 alone. -/
theorem witness_WaitForKey : (∀ k : Fin 16, used.keys[k] = 0) ∧
    (∃ s : State, s.keys[(3 : Fin 16)] ≠ 0 ∧ ∀ j : Fin 16, j < 3 → s.keys[j] = 0) ∧
    (∃ s : State, s.keys[(15 : Fin 16)] ≠ 0 ∧ ∀ j : Fin 16, j < 15 → s.keys[j] = 0) :=
  ⟨by decide, ⟨{ used with keys := (oneKey 9 (by decide)).set 3 1 }, by decide⟩, { used with keys := oneKey 15 (by decide) }, by decide⟩

/-! ## The two definitions the host asks -/

/-- From reset, the placed word is the first instruction step runs; nothing else of the state changes. -/
theorem test_withFetchWord : Fetches (State.reset.withFetchWord 16 0xD123) (.drw 1 2 3) ∧
    (State.reset.withFetchWord 16 0xD123).mem = [(512, 0xD1), (513, 0x23)] ∧
    { State.reset.withFetchWord 16 0xD123 with mem := [] } = State.reset := by
  refine ⟨⟨by decide, by decide⟩, by decide, by rfl⟩

end Sys2Proof.Tests
end

section
/-! PROOFS. Scope (00_scope.md): the step of a running block is total. -/

namespace Sys2Proof.Machine

/-- No instruction stops the machine or is refused: one that takes a fault ends in a next state as well (R212). -/
theorem exec_next (i : Instr) (s : State) : ∃ t, exec i s = .next t := by
  obtain ⟨t, ht, -⟩ | ⟨f, hf⟩ := exec_answers i s
  · exact ⟨t, ht⟩
  · exact ⟨_, hf⟩

/-- Settles O11, by what a step can do: the recorded fault is excluded, the fetch fault and the report of an
unclassified word are next states, and so is the tick after any instruction. -/
theorem runningBlockAlwaysSteps : Obligations.RunningBlockAlwaysSteps := by
  intro s hr
  obtain ⟨f, hf, -⟩ | ⟨-, -, hs⟩ | ⟨-, -, hs⟩ | ⟨i, -, -, hs⟩ := step_cases s
  · exact absurd (hr.symm.trans hf) (by simp)
  · exact ⟨_, hs⟩
  · exact ⟨_, hs⟩
  · obtain ⟨u, hu⟩ := exec_next i s.clearEvents
    exact ⟨_, by rw [hs, hu, afterDispatch]⟩

end Sys2Proof.Machine
end

section
/-! PROOFS. What an instruction does, said once: which fault it raises, and what it leaves when it completes. -/

namespace Sys2Proof.Machine

/-- The fault an instruction raises, if any (60_exceptions.md R215). -/
def faultOf (i : Instr) (s : State) : Option Fault :=
  match i with
  | .ret => if s.sp.val = 0 then some (.stackUnderflow s.pc.toNat) else none
  | .call _ => if s.sp.val < 16 then none else some (.stackOverflow s.pc.toNat)
  | .drw _ _ n => checkSprite s n.toNat
  | .skp x | .sknp x => if 15 < (s.reg x).toNat then some (.keyNumber (s.reg x).toNat) else none
  | .ldB _ => checkRange s (effectiveAddr s 0) (effectiveAddr s 2) .write
  | .stRegs x => checkRange s (effectiveAddr s 0) (effectiveAddr s x.toNat) .write
  | .ldRegs x => checkRange s (effectiveAddr s 0) (effectiveAddr s x.toNat) .read
  | _ => none

/-- The key wait of LD Vx,K when `found` is the least pressed key (45_input_timers.md R193). -/
def State.takeKey (s : State) (x : RegIx) (found : Option (BitVec 4)) : State :=
  found.elim s fun k => (s.setReg x (k.setWidth 8)).advance 2

/-- What an instruction leaves when it raises no fault. -/
def completed (i : Instr) (s : State) : State :=
  match i with
  | .cls => (s.paint 0).advance 2
  | .ret => s.pop.setPc (s.top + 2)
  | .jp nnn => s.setPc (zext16 nnn)
  | .call nnn => if h : s.sp.val < 16 then (s.push s.pc h).setPc (zext16 nnn) else s
  | .seImm x nn => s.skip (s.reg x = nn)
  | .sneImm x nn => s.skip (s.reg x ≠ nn)
  | .seReg x y => s.skip (s.reg x = s.reg y)
  | .ldImm x nn => (s.setReg x nn).advance 2
  | .addImm x nn => (s.setReg x (s.reg x + nn)).advance 2
  | .ldReg x y => (s.setReg x (s.reg y)).advance 2
  | .orReg x y => (s.setReg x (s.reg x ||| s.reg y)).advance 2
  | .andReg x y => (s.setReg x (s.reg x &&& s.reg y)).advance 2
  | .xorReg x y => (s.setReg x (s.reg x ^^^ s.reg y)).advance 2
  | .addReg x y => (s.setFlagThenReg (carryOut (s.reg x) (s.reg y)) x (s.reg x + s.reg y)).advance 2
  | .subReg x y => (s.setFlagThenReg (noBorrow (s.reg x) (s.reg y)) x (s.reg x - s.reg y)).advance 2
  | .shr x => (s.setFlagThenReg (lowBit (s.reg x)) x (s.reg x >>> 1)).advance 2
  | .subnReg x y => (s.setFlagThenReg (noBorrow (s.reg y) (s.reg x)) x (s.reg y - s.reg x)).advance 2
  | .shl x => (s.setFlagThenReg (highBit (s.reg x)) x (s.reg x <<< 1)).advance 2
  | .sneReg x y => s.skip (s.reg x ≠ s.reg y)
  | .ldI nnn => (s.setI (zext16 nnn)).advance 2
  | .jpV0 nnn => s.setPc (zext16 nnn + (s.reg 0).setWidth 16)
  | .rnd x nn => ((s.setReg x (Config.rand8 s.draws &&& nn)).advance 2).nextDraw
  | .drw x y n => ((s.paint (drawn s x y n.toNat).1).setReg VF (flagByte (drawn s x y n.toNat).2)).advance 2
  | .skp x => s.skip (s.keyPressed ((s.reg x).setWidth 4))
  | .sknp x => s.skip (!s.keyPressed ((s.reg x).setWidth 4))
  | .ldVxDT x => (s.setReg x s.DT).advance 2
  | .ldVxK x => s.takeKey x (lowestPressed s)
  | .ldDTVx x => (s.setDT (s.reg x)).advance 2
  | .ldSTVx x => (s.setST (s.reg x)).advance 2
  | .addI x => (s.setI (s.I + (s.reg x).setWidth 16)).advance 2
  | .ldF x => (s.setI (glyphAddr (s.reg x))).advance 2
  | .ldB x => (s.storeBcd (s.reg x)).advance 2
  | .stRegs x => ((s.storeRegs (effectiveAddr s 0) (x.toNat + 1)).bumpI x).advance 2
  | .ldRegs x => ((s.loadRegs (effectiveAddr s 0) (x.toNat + 1)).bumpI x).advance 2

/-- An instruction raises its fault, or completes. -/
theorem exec_eq (i : Instr) (s : State) :
    exec i s = (faultOf i s).elim (.next (completed i s)) fun f => .next (s.withFault f) := by
  cases i with
  | ret =>
    simp only [exec, execRet, faultOf]
    split <;> rfl
  | call nnn =>
    simp only [exec, execCall, faultOf, completed]
    split <;> rfl
  | drw x y n =>
    simp only [exec, execDrw, faultOf]
    cases checkSprite s n.toNat <;> rfl
  | skp x | sknp x =>
    simp only [exec, execSkp, execSknp, keyOperand, faultOf]
    by_cases h : 15 < (s.reg x).toNat <;> simp only [h, if_true, if_false] <;> rfl
  | ldVxK x =>
    simp only [exec, execLdVxK, faultOf, completed]
    cases lowestPressed s <;> rfl
  | ldB x | stRegs x | ldRegs x =>
    simp only [exec, execLdB, execStRegs, execLdRegs, faultOf]
    cases checkRange s _ _ _ <;> rfl
  | _ => rfl

theorem exec_of_faultOf_none {i : Instr} {s : State} (h : faultOf i s = none) : exec i s = .next (completed i s) := by
  rw [exec_eq, h]; rfl

theorem exec_of_faultOf_some {i : Instr} {s : State} {f : Fault} (h : faultOf i s = some f) :
    exec i s = .next (s.withFault f) := by
  rw [exec_eq, h]; rfl

theorem sp_lt_of_call {nnn : Addr12} {s : State} (h : faultOf (.call nnn) s = none) : s.sp.val < 16 := by
  simpa [faultOf] using h

theorem sp_ne_zero_of_ret {s : State} (h : faultOf .ret s = none) : s.sp.val ≠ 0 := by
  simpa [faultOf] using h

theorem completed_call (nnn : Addr12) {s : State} (h : s.sp.val < 16) :
    completed (.call nnn) s = (s.push s.pc h).setPc (zext16 nnn) := dif_pos h

/-- What an instruction that answers `t` did. -/
theorem exec_next_cases {i : Instr} {s t : State} (h : exec i s = .next t) :
    (faultOf i s = none ∧ t = completed i s) ∨ ∃ f, faultOf i s = some f ∧ t = s.withFault f := by
  cases hf : faultOf i s with
  | none =>
    rw [exec_of_faultOf_none hf] at h
    cases h
    exact .inl ⟨rfl, rfl⟩
  | some f =>
    rw [exec_of_faultOf_some hf] at h
    cases h
    exact .inr ⟨f, rfl, rfl⟩

end Sys2Proof.Machine
end

section
/-! PROOFS. The frame of every instruction, from one rule per update of the state. -/

namespace Sys2Proof.Machine

/-! ### Unchanged, one rule per update -/

namespace Unchanged

variable {regs : List RegIx} {parts : List Part} {stored : Nat → Prop} {s t : State}

theorem refl (regs : List RegIx) (parts : List Part) (stored : Nat → Prop) (s : State) :
    Unchanged regs parts stored s s := by
  constructor <;> intros <;> rfl

theorem setReg (h : Unchanged regs parts stored s t) {q : RegIx} (v : Byte) (hq : q ∈ regs) :
    Unchanged regs parts stored s (t.setReg q v) :=
  { h with reg := fun r hr => (reg_setReg_other t v (ne_of_mem_of_not_mem hq hr).symm).trans (h.reg r hr) }

theorem setFlagThenReg (h : Unchanged regs parts stored s t) (flag : Bool) {q : RegIx} (v : Byte) (hf : VF ∈ regs)
    (hq : q ∈ regs) : Unchanged regs parts stored s (t.setFlagThenReg flag q v) :=
  (h.setReg _ hf).setReg v hq

theorem loadRegs (h : Unchanged regs parts stored s t) (base n : Nat) (hq : ∀ k, k < n → BitVec.ofNat 4 k ∈ regs) :
    Unchanged regs parts stored s (t.loadRegs base n) := by
  induction n with
  | zero => exact h
  | succ n ih => exact (ih fun k hk => hq k (by omega)).setReg _ (hq n (by omega))

theorem storeByte (h : Unchanged regs parts stored s t) {a : Nat} (v : Byte) (ha : stored a) :
    Unchanged regs parts stored s (t.storeByte a v) :=
  { h with mem := fun b hb => (loadByte_storeByte_other t v (by rintro rfl; exact hb ha)).trans (h.mem b hb) }

theorem storeRegs (h : Unchanged regs parts stored s t) (base n : Nat) (ha : ∀ k, k < n → stored (base + k)) :
    Unchanged regs parts stored s (t.storeRegs base n) := by
  induction n with
  | zero => exact h
  | succ n ih => exact (ih fun k hk => ha k (by omega)).storeByte _ (ha n (by omega))

theorem setPc (h : Unchanged regs parts stored s t) (v : Word) (hp : .pc ∈ parts) :
    Unchanged regs parts stored s (t.setPc v) :=
  { h with pc := fun hn => absurd hp hn }

theorem advance (h : Unchanged regs parts stored s t) (n : Word) (hp : .pc ∈ parts) :
    Unchanged regs parts stored s (t.advance n) :=
  h.setPc _ hp

theorem setI (h : Unchanged regs parts stored s t) (v : Word) (hp : .I ∈ parts) :
    Unchanged regs parts stored s (t.setI v) :=
  { h with I := fun hn => absurd hp hn }

theorem setDT (h : Unchanged regs parts stored s t) (v : Byte) (hp : .DT ∈ parts) :
    Unchanged regs parts stored s (t.setDT v) :=
  { h with DT := fun hn => absurd hp hn }

theorem setST (h : Unchanged regs parts stored s t) (v : Byte) (hp : .ST ∈ parts) :
    Unchanged regs parts stored s (t.setST v) :=
  { h with ST := fun hn => absurd hp hn }

theorem paint (h : Unchanged regs parts stored s t) (f : FrameBuffer) (hf : .fb ∈ parts) (hr : .redraw ∈ parts) :
    Unchanged regs parts stored s (t.paint f) :=
  { h with fb := fun hn => absurd hf hn, redraw := fun hn => absurd hr hn }

theorem push (h : Unchanged regs parts stored s t) (v : Word) (hlt : t.sp.val < 16) (hk : .stack ∈ parts)
    (hp : .sp ∈ parts) : Unchanged regs parts stored s (t.push v hlt) :=
  { h with stack := fun hn => absurd hk hn, sp := fun hn => absurd hp hn }

theorem pop (h : Unchanged regs parts stored s t) (hp : .sp ∈ parts) : Unchanged regs parts stored s t.pop :=
  { h with sp := fun hn => absurd hp hn }

theorem nextDraw (h : Unchanged regs parts stored s t) (hp : .draws ∈ parts) :
    Unchanged regs parts stored s t.nextDraw :=
  { h with draws := fun hn => absurd hp hn }

theorem takeKey (h : Unchanged regs parts stored s t) {x : RegIx} (found : Option (BitVec 4)) (hx : x ∈ regs)
    (hp : .pc ∈ parts) : Unchanged regs parts stored s (t.takeKey x found) := by
  cases found with
  | none => exact h
  | some k => exact (h.setReg _ hx).advance _ hp

end Unchanged

/-! ### What an instruction may write -/

/-- The registers an instruction may write: the table of 10_state.md R24 as a list. -/
def writtenRegs : Instr → List RegIx
  | .ldImm x _ | .addImm x _ | .rnd x _ | .ldVxDT x | .ldVxK x => [x]
  | .ldReg x _ | .orReg x _ | .andReg x _ | .xorReg x _ => [x]
  | .addReg x _ | .subReg x _ | .subnReg x _ | .shr x | .shl x => [x, VF]
  | .drw _ _ _ => [VF]
  | .ldRegs x => regsUpTo x
  | _ => []

/-- The parts of the state an instruction that completes may write, beside registers and memory. -/
def writtenParts : Instr → List Part
  | .cls | .drw _ _ _ => [.fb, .redraw, .pc]
  | .ret => [.sp, .pc]
  | .call _ => [.stack, .sp, .pc]
  | .rnd _ _ => [.pc, .draws]
  | .ldDTVx _ => [.DT, .pc]
  | .ldSTVx _ => [.ST, .pc]
  | .ldI _ | .addI _ | .ldF _ | .stRegs _ | .ldRegs _ => [.I, .pc]
  | _ => [.pc]

/-- The addresses an instruction that completes may store to. -/
def storedAddrs (i : Instr) (s : State) : Nat → Prop :=
  match i with
  | .ldB _ => storedRange (effectiveAddr s 0) (effectiveAddr s 2)
  | .stRegs x => storedRange (effectiveAddr s 0) (effectiveAddr s x.toNat)
  | _ => noStore

theorem mem_regsUpTo {x r : RegIx} : r ∈ regsUpTo x ↔ r ≤ x := by
  simp only [regsUpTo, List.mem_map, List.mem_range, BitVec.le_def]
  constructor
  · rintro ⟨k, hk, rfl⟩
    have := Nat.mod_le k (2 ^ 4)
    simp only [BitVec.toNat_ofNat]
    omega
  · exact fun h => ⟨r.toNat, by omega, by simp⟩

theorem mem_writtenRegs {i : Instr} {r : RegIx} : r ∈ writtenRegs i ↔ mayWriteReg i r = true := by
  cases i <;> simp [writtenRegs, mayWriteReg, mem_regsUpTo]

/-- THE FRAME of an instruction that completes. -/
theorem completed_unchanged (i : Instr) (s : State) :
    Unchanged (writtenRegs i) (writtenParts i) (storedAddrs i s) s (completed i s) := by
  have h0 := Unchanged.refl (writtenRegs i) (writtenParts i) (storedAddrs i s) s
  have hpc : Part.pc ∈ writtenParts i := by cases i <;> simp [writtenParts]
  cases i with
  | cls => exact (h0.paint _ (by simp [writtenParts]) (by simp [writtenParts])).advance _ hpc
  | ret => exact (h0.pop (by simp [writtenParts])).setPc _ hpc
  | jp | jpV0 => exact h0.setPc _ hpc
  | call nnn =>
    simp only [completed]
    split
    · exact (h0.push _ _ (by simp [writtenParts]) (by simp [writtenParts])).setPc _ hpc
    · exact h0
  | seImm | sneImm | seReg | sneReg | skp | sknp => exact h0.advance _ hpc
  | ldImm | addImm | ldReg | orReg | andReg | xorReg | ldVxDT =>
    exact (h0.setReg _ (by simp [writtenRegs])).advance _ hpc
  | addReg | subReg | shr | subnReg | shl =>
    exact (h0.setFlagThenReg _ _ (by simp [writtenRegs]) (by simp [writtenRegs])).advance _ hpc
  | ldI | addI | ldF => exact (h0.setI _ (by simp [writtenParts])).advance _ hpc
  | rnd => exact ((h0.setReg _ (by simp [writtenRegs])).advance _ hpc).nextDraw (by simp [writtenParts])
  | drw =>
    exact ((h0.paint _ (by simp [writtenParts]) (by simp [writtenParts])).setReg _ (by simp [writtenRegs])).advance _ hpc
  | ldVxK => exact h0.takeKey _ (by simp [writtenRegs]) hpc
  | ldDTVx => exact (h0.setDT _ (by simp [writtenParts])).advance _ hpc
  | ldSTVx => exact (h0.setST _ (by simp [writtenParts])).advance _ hpc
  | ldB x =>
    have hst : ∀ k, k ≤ 2 → storedAddrs (.ldB x) s (effectiveAddr s k) := fun k hk => by
      simp only [storedAddrs, storedRange, effectiveAddr]; omega
    exact (((h0.storeByte _ (hst 0 (by omega))).storeByte _ (hst 1 (by omega))).storeByte _
      (hst 2 (by omega))).advance _ hpc
  | stRegs x =>
    refine ((h0.storeRegs _ _ fun k hk => ?_).setI _ (by simp [writtenParts])).advance _ hpc
    simp only [storedAddrs, storedRange, effectiveAddr]
    omega
  | ldRegs x =>
    exact ((h0.loadRegs _ _ fun k hk => List.mem_map_of_mem (List.mem_range.2 hk)).setI _
      (by simp [writtenParts])).advance _ hpc

end Sys2Proof.Machine
end

section
/-! PROOFS. The fields a timer tick keeps, and the step in terms of what its instruction completes to. -/

namespace Sys2Proof.Machine

/-! ### The tick -/

@[simp] theorem tick_mem (s : State) : s.tick.mem = s.mem := by rw [tick_eq]
@[simp] theorem tick_pc (s : State) : s.tick.pc = s.pc := by rw [tick_eq]
@[simp] theorem tick_stack (s : State) : s.tick.stack = s.stack := by rw [tick_eq]
@[simp] theorem tick_sp (s : State) : s.tick.sp = s.sp := by rw [tick_eq]
@[simp] theorem tick_fb (s : State) : s.tick.fb = s.fb := by rw [tick_eq]
@[simp] theorem tick_keys (s : State) : s.tick.keys = s.keys := by rw [tick_eq]
@[simp] theorem tick_redraw (s : State) : s.tick.redraw = s.redraw := by rw [tick_eq]
@[simp] theorem tick_fault (s : State) : s.tick.fault = s.fault := by rw [tick_eq]
@[simp] theorem tick_cfg (s : State) : s.tick.cfg = s.cfg := by rw [tick_eq]
@[simp] theorem tick_reg (s : State) (r : RegIx) : s.tick.reg r = s.reg r := by rw [tick_eq]; rfl

/-! ### The step -/

@[simp] theorem faultOf_clearEvents (i : Instr) (s : State) : faultOf i s.clearEvents = faultOf i s := rfl

@[simp] theorem pcAfter_clearEvents (i : Instr) (s : State) : pcAfter i s.clearEvents = pcAfter i s := rfl

theorem completed_fault (i : Instr) (s : State) : (completed i s).fault = s.fault :=
  (completed_unchanged i s).fault (by cases i <;> simp [writtenParts])

/-- The step of a running block whose instruction raises no fault: the instruction, then the tick. -/
theorem step_completes {i : Instr} {s : State} (hr : s.Running) (hi : Fetches s i) (hf : faultOf i s = none) :
    step s = .next (completed i s.clearEvents).tick := by
  rw [step_fetches hr hi, exec_of_faultOf_none (by rwa [faultOf_clearEvents])]
  have hn : (completed i s.clearEvents).fault = none := (completed_fault i _).trans hr
  simp [afterDispatch, hn]

/-- The step of a running block whose instruction raises a fault. -/
theorem step_faults {i : Instr} {s : State} {f : Fault} (hr : s.Running) (hi : Fetches s i)
    (hf : faultOf i s = some f) : step s = .next (s.clearEvents.withFault f) := by
  rw [step_fetches hr hi, exec_of_faultOf_some (by rwa [faultOf_clearEvents])]
  simp [afterDispatch]

/-- The three ways a step ends: a fault; the report of an unclassified word; a completed instruction. -/
theorem step_next_outcomes {s t : State} (h : step s = .next t) :
    (¬ FetchesUnclassified s ∧ ∃ f, t = s.clearEvents.withFault f) ∨
    (FetchesUnclassified s ∧ t.fault = none ∧
      t = ((s.clearEvents.emit (.unknownOpcode (wordAtPc s))).advance 2).tick) ∨
    (∃ i, Fetches s i ∧ faultOf i s = none ∧ t.fault = none ∧ t = (completed i s.clearEvents).tick) := by
  obtain ⟨hr, ⟨hpc, rfl⟩ | ⟨hu, rfl⟩ | ⟨i, hi, -⟩⟩ := step_next_cases h
  · exact .inl ⟨fun hu => absurd hu.1 (by omega), _, rfl⟩
  · exact .inr (.inl ⟨hu, by simpa using hr, rfl⟩)
  · cases hf : faultOf i s with
    | none =>
      rw [step_completes hr hi hf] at h
      cases h
      exact .inr (.inr ⟨i, hi, hf, by simpa [completed_fault] using hr, rfl⟩)
    | some f =>
      rw [step_faults hr hi hf] at h
      cases h
      exact .inl ⟨hi.not_unclassified, f, rfl⟩

/-- No step writes a key cell or a parameter. -/
theorem step_keys_cfg {s t : State} (h : step s = .next t) : t.keys = s.keys ∧ t.cfg = s.cfg := by
  obtain ⟨-, f, rfl⟩ | ⟨-, -, rfl⟩ | ⟨i, -, -, -, rfl⟩ := step_next_outcomes h
  · exact ⟨rfl, rfl⟩
  · simp
  · have hc := completed_unchanged i s.clearEvents
    exact ⟨(tick_keys _).trans hc.keys, (tick_cfg _).trans hc.cfg⟩

end Sys2Proof.Machine
end
section
/-! PROOFS. Who writes what (10_state.md): the program counter, the display, the stack and the registers. -/

namespace Sys2Proof.Machine

/-! ### Program counter -/

/-- An instruction that completes leaves pc where the table of R27 has it. -/
theorem completed_pc {i : Instr} {s : State} (hf : faultOf i s = none) : (completed i s).pc = pcAfter i s := by
  cases i with
  | jp nnn => exact (BitVec.ofNat_toNat 16 nnn).symm
  | jpV0 nnn => simp [completed, pcAfter, zext16, BitVec.ofNat_add]
  | call nnn =>
    rw [completed_call nnn (sp_lt_of_call hf)]
    exact (BitVec.ofNat_toNat 16 nnn).symm
  | seImm | sneImm | seReg | sneReg | skp | sknp =>
    simp only [completed, pcAfter, skip_pc]
    split <;> simp_all
  | ldVxK x =>
    have hiff : (∃ k, s.keyPressed k = true) ↔ lowestPressed s ≠ none := by simp [lowestPressed_eq_none]
    simp only [completed, pcAfter, hiff]
    cases lowestPressed s <;> simp [State.takeKey]
  | stRegs | ldRegs => simp [completed, pcAfter]
  | _ => rfl

/-- Settles O17, by the pc of a completed instruction; the fetches of the three outcomes of a step exclude one
another. -/
theorem programCounterTable : Obligations.ProgramCounterTable := by
  intro s t h
  obtain ⟨hu, f, rfl⟩ | ⟨hu, hn, rfl⟩ | ⟨i, hi, hf, hn, rfl⟩ := step_next_outcomes h
  · exact ⟨fun _ _ hn => by simp at hn, fun h => absurd h hu, fun _ => rfl⟩
  · exact ⟨fun j hj _ => absurd hu hj.not_unclassified, fun _ => by simp, fun hne => absurd hn hne⟩
  · refine ⟨fun j hj _ => ?_, fun hu => absurd hu hi.not_unclassified, fun hne => absurd hn hne⟩
    rw [hj.unique hi, tick_pc, completed_pc (by simpa using hf), pcAfter_clearEvents]

/-! ### Display, stack and keys -/

theorem fb_mem_writtenParts {i : Instr} : Part.fb ∈ writtenParts i ↔ i = .cls ∨ ∃ x y n, i = .drw x y n := by
  cases i <;> simp [writtenParts]

theorem stack_mem_writtenParts {i : Instr} : Part.stack ∈ writtenParts i ↔ ∃ nnn, i = .call nnn := by
  cases i <;> simp [writtenParts]

theorem sp_mem_writtenParts {i : Instr} : Part.sp ∈ writtenParts i ↔ i = .ret ∨ ∃ nnn, i = .call nnn := by
  cases i <;> simp [writtenParts]

theorem redraw_mem_writtenParts {i : Instr} : Part.redraw ∈ writtenParts i ↔ i = .cls ∨ ∃ x y n, i = .drw x y n := by
  cases i <;> simp [writtenParts]

/-- Exactly CLS and DRW set the redraw flag, and no instruction clears it. -/
theorem completed_redraw (i : Instr) (s : State) :
    (completed i s).redraw = true ↔ s.redraw = true ∨ i = .cls ∨ ∃ x y n, i = .drw x y n := by
  by_cases hw : Part.redraw ∈ writtenParts i
  · obtain rfl | ⟨x, y, n, rfl⟩ := redraw_mem_writtenParts.1 hw <;> simp [completed]
  · rw [(completed_unchanged i s).redraw hw, ← redraw_mem_writtenParts]
    simp [hw]

/-- Settles O23, by the frame of a completed instruction; no other step writes these parts. -/
theorem whoWritesDisplayStackAndKeys : Obligations.WhoWritesDisplayStackAndKeys := by
  intro s t h
  have hkc := step_keys_cfg h
  obtain ⟨-, f, rfl⟩ | ⟨hu, hn, rfl⟩ | ⟨i, hi, hf, hn, rfl⟩ := step_next_outcomes h
  · simp
  · have hno : ∀ i, ¬ Fetches s i := fun i hi => hi.not_unclassified hu
    simp [hno]
  · have hc := completed_unchanged i s.clearEvents
    have hfetch : ∀ j, Fetches s j ↔ i = j := fun j => ⟨fun hj => hi.unique hj, fun e => e ▸ hi⟩
    simp only [tick_fb, tick_redraw, tick_stack, tick_sp, hfetch, hn, true_and]
    refine ⟨fun hne => ?_, completed_redraw i _, fun hne => ?_, fun hne => ?_, hkc⟩
    · exact fb_mem_writtenParts.1 (by_contra fun hw => hne (hc.fb hw))
    · exact stack_mem_writtenParts.1 (by_contra fun hw => hne (hc.stack hw))
    · exact sp_mem_writtenParts.1 (by_contra fun hw => hne (hc.sp hw))

/-! ### Registers -/

/-- Settles O24, by the frame of a completed instruction; no other step writes a register. -/
theorem registersWrittenAreThoseOfTheTable : Obligations.RegistersWrittenAreThoseOfTheTable := by
  intro s t h
  obtain ⟨-, f, rfl⟩ | ⟨-, -, rfl⟩ | ⟨i, hi, -, -, rfl⟩ := step_next_outcomes h
  · simp
  · simp
  · refine ⟨fun j hj r hr => ?_, fun hno => absurd hi (hno i)⟩
    rw [hj.unique hi, ← Bool.not_eq_true, ← mem_writtenRegs] at hr
    exact (tick_reg _ r).trans ((completed_unchanged i s.clearEvents).reg r hr)

end Sys2Proof.Machine
end

section
/-! PROOFS. The invariant of the block (10_state.md R28, R41): after initialization, and after every step. -/

namespace Sys2Proof.Machine

/-! ### Memory after initialization -/

theorem loadByte_initial (cfg : Config) (a : Nat) : (State.initial cfg).loadByte a = resetByte cfg a := rfl

theorem loadByte_initial_font (cfg : Config) {a : Nat} (ha : a < 80) :
    (State.initial cfg).loadByte a = cfg.font[a] := by
  rw [loadByte_initial, resetByte, dif_pos ha]

/-! ### The invariant -/

/-- The invariant speaks of memory, pc, stack, sp and the parameters alone. -/
theorem Inv.congr {s t : State} (h : Inv s) (hmem : t.mem = s.mem) (hpc : t.pc = s.pc) (hstack : t.stack = s.stack)
    (hsp : t.sp = s.sp) (hcfg : t.cfg = s.cfg) : Inv t := by
  obtain ⟨hwf, hmax, hstk, hfont⟩ := h
  constructor
  · rwa [hcfg, hmem]
  · rwa [hpc]
  · rwa [hstack, hsp]
  · simpa only [State.loadByte, hcfg, hmem] using hfont

theorem Inv.setPc {s : State} (h : Inv s) {v : Word} (hv : v.toNat ≤ 0x10FE) : Inv (s.setPc v) :=
  { h with pcMax := hv }

theorem Inv.tick {s : State} (h : Inv s) : Inv s.tick :=
  h.congr (tick_mem s) (tick_pc s) (tick_stack s) (tick_sp s) (tick_cfg s)

/-- Settles O20: nothing is listed in memory, and no stack entry is in use. -/
theorem invariantAfterReset : Obligations.InvariantAfterReset := by
  have hinit : ∀ cfg, Inv (State.initial cfg) := fun cfg =>
    { memWf := wf_nil cfg
      pcMax := by simp [State.initial]
      stackMax := fun _ hj => absurd hj (Nat.not_lt_zero _)
      font := fun _ _ ha => loadByte_initial_font cfg ha }
  exact ⟨hinit, hinit _⟩

/-! ### Memory -/

/-- An instruction that completes keeps memory canonical. -/
theorem completed_wf {i : Instr} {s : State} (hm : Memory.wf s.cfg s.mem) (hf : faultOf i s = none) :
    Memory.wf s.cfg (completed i s).mem := by
  cases i with
  | call nnn =>
    rw [completed_call nnn (sp_lt_of_call hf)]
    exact hm
  | ldVxK x =>
    simp only [completed]
    cases lowestPressed s <;> exact hm
  | ldB x =>
    obtain ⟨hle, -⟩ := checkRange_eq_none.1 hf
    have hlt : ∀ k, k ≤ 2 → effectiveAddr s k < 4096 := fun k hk => by simp only [effectiveAddr] at hle ⊢; omega
    exact store_wf (store_wf (store_wf hm (hlt 0 (by omega)) _) (hlt 1 (by omega)) _) (hlt 2 (by omega)) _
  | stRegs x =>
    obtain ⟨hle, -⟩ := checkRange_eq_none.1 hf
    exact storeRegs_wf hm _ _ (by simp only [effectiveAddr] at hle ⊢; omega)
  | ldRegs x => simpa [completed] using hm
  | _ => exact hm

/-- With FONT_WRITE = fault an instruction that completes stores to no byte of the font table. -/
theorem not_storedAddrs_font {i : Instr} {s : State} (hf : faultOf i s = none) (hw : s.cfg.fontWrite = .fault) {a : Nat}
    (ha : a < 80) : ¬ storedAddrs i s a := by
  cases i with
  | ldB | stRegs =>
    obtain ⟨-, hno⟩ := checkRange_eq_none.1 hf
    have hge : ¬ effectiveAddr s 0 < 80 := fun hlt => hno ⟨rfl, hlt, hw⟩
    exact fun ⟨hlo, _⟩ => hge (by omega)
  | _ => exact id

/-! ### Program counter and stack -/

/-- The target of an instruction fetched below 4095 is at most 10FE, the largest target of JP V0 (10_state.md R28). -/
theorem pcAfter_le {i : Instr} {s : State} (hpc : s.pc.toNat ≤ 4094)
    (hstk : ∀ j : Fin 16, j.val < s.sp.val → s.stack[j].toNat ≤ 4094) (hf : faultOf i s = none) :
    (pcAfter i s).toNat ≤ 0x10FE := by
  have h2 : (s.pc + 2).toNat ≤ 0x10FE := by bv_omega
  have h4 : (s.pc + 4).toNat ≤ 0x10FE := by bv_omega
  cases i with
  | jp nnn | call nnn =>
    have := nnn.isLt
    simp only [pcAfter, BitVec.toNat_ofNat]
    omega
  | jpV0 nnn =>
    have := nnn.isLt
    have := (s.reg 0).isLt
    simp only [pcAfter, BitVec.toNat_ofNat]
    omega
  | ret =>
    have hsp := sp_ne_zero_of_ret hf
    have htop := hstk ⟨s.sp.val - 1, by omega⟩ (by simp only; omega)
    simp only [pcAfter, Fin.getElem_fin] at htop ⊢
    bv_omega
  | seImm | sneImm | seReg | sneReg | skp | sknp =>
    simp only [pcAfter]
    split <;> assumption
  | ldVxK =>
    simp only [pcAfter]
    split <;> omega
  | _ => exact h2

/-- Every entry in use after an instruction is the address of a fetched CALL, when every one before was. -/
theorem completed_stack_le {i : Instr} {s : State} (hpc : s.pc.toNat ≤ 4094)
    (hstk : ∀ j : Fin 16, j.val < s.sp.val → s.stack[j].toNat ≤ 4094) (hf : faultOf i s = none) (j : Fin 16)
    (hj : j.val < (completed i s).sp.val) : (completed i s).stack[j].toNat ≤ 4094 := by
  have hc := completed_unchanged i s
  cases i with
  | call nnn =>
    rw [completed_call nnn (sp_lt_of_call hf)] at hj ⊢
    simp only [setPc_stack, push_stack, setPc_sp, push_sp] at hj ⊢
    by_cases he : j.val = s.sp.val
    · simpa [he] using hpc
    · simpa [Vector.getElem_set, Ne.symm he] using hstk j (by omega)
  | ret => exact hstk j (by simp only [completed, setPc_sp, pop_sp] at hj; omega)
  | _ =>
    rw [hc.sp (by simp [writtenParts])] at hj
    rw [hc.stack (by simp [writtenParts])]
    exact hstk j hj

/-! ### The step -/

/-- An instruction that completes keeps the invariant when it was fetched from memory. -/
theorem completed_inv {i : Instr} {s : State} (h : Inv s) (hpc : s.pc.toNat ≤ 4094) (hf : faultOf i s = none) :
    Inv (completed i s) := by
  obtain ⟨hwf, -, hstk, hfont⟩ := h
  have hc := completed_unchanged i s
  constructor
  · rw [hc.cfg]
    exact completed_wf hwf hf
  · rw [completed_pc hf]
    exact pcAfter_le hpc hstk hf
  · exact completed_stack_le hpc hstk hf
  · intro hw a ha
    simp only [hc.cfg] at hw ⊢
    rw [hc.mem a (not_storedAddrs_font hf hw ha), hfont hw a ha]

/-- Settles O19, by the outcomes of a step: a completed instruction keeps the invariant, a fault and the tick touch
nothing it speaks of, and an unclassified word moves pc by 2. -/
theorem stepKeepsInvariant : Obligations.StepKeepsInvariant := by
  intro s t hi h
  obtain ⟨-, f, rfl⟩ | ⟨⟨hpc, -⟩, -, rfl⟩ | ⟨i, ⟨hpc, -⟩, hf, -, rfl⟩ := step_next_outcomes h
  · exact hi.congr rfl rfl rfl rfl rfl
  · have hi' : Inv (s.clearEvents.emit (.unknownOpcode (wordAtPc s))) := hi.congr rfl rfl rfl rfl rfl
    exact (hi'.setPc (by simp only [emit_pc, clearEvents_pc]; bv_omega)).tick
  · have hi' : Inv s.clearEvents := hi.congr rfl rfl rfl rfl rfl
    exact (completed_inv hi' hpc hf).tick

end Sys2Proof.Machine
end

section
/-! PROOFS. What no instruction can observe (10_state.md): registers it does not read, stale stack entries, ST. -/

namespace Sys2Proof.Machine

/-! ### Registers -/

/-- `u` is `t` but for what `x[r]` holds. -/
def SameButReg (r : RegIx) (t u : State) : Prop := ∃ w, u = t.setReg r w

namespace SameButReg

variable {r : RegIx} {t u : State}

theorem of_setReg (t : State) (r : RegIx) (v : Byte) : SameButReg r t (t.setReg r v) := ⟨v, rfl⟩

theorem setReg (h : SameButReg r t u) (q : RegIx) (v : Byte) : SameButReg r (t.setReg q v) (u.setReg q v) := by
  obtain ⟨w, rfl⟩ := h
  by_cases hq : q = r
  · subst hq
    exact ⟨v, by simp⟩
  · exact ⟨w, setReg_comm t w v hq⟩

theorem setFlagThenReg (h : SameButReg r t u) (flag : Bool) (q : RegIx) (v : Byte) :
    SameButReg r (t.setFlagThenReg flag q v) (u.setFlagThenReg flag q v) :=
  (h.setReg _ _).setReg _ _

theorem loadRegs (h : SameButReg r t u) (base n : Nat) : SameButReg r (t.loadRegs base n) (u.loadRegs base n) := by
  induction n with
  | zero => exact h
  | succ n ih =>
    have hb : u.loadByte (base + n) = t.loadByte (base + n) := by obtain ⟨w, rfl⟩ := h; rfl
    simp only [State.loadRegs, hb]
    exact ih.setReg _ _

/-- An update that writes no register and reads none. -/
theorem map (h : SameButReg r t u) (f : State → State) (hf : ∀ s w, f (s.setReg r w) = (f s).setReg r w) :
    SameButReg r (f t) (f u) := by
  obtain ⟨w, rfl⟩ := h
  exact ⟨w, hf t w⟩

theorem advance (h : SameButReg r t u) (n : Word) : SameButReg r (t.advance n) (u.advance n) :=
  h.map (·.advance n) fun _ _ => rfl

theorem takeKey (h : SameButReg r t u) (x : RegIx) (found : Option (BitVec 4)) :
    SameButReg r (t.takeKey x found) (u.takeKey x found) := by
  cases found with
  | none => exact h
  | some k => exact (h.setReg _ _).advance _

end SameButReg

/-- A block store of registers other than x[r] does not see x[r]. -/
theorem storeRegs_setReg (s : State) {r : RegIx} (v : Byte) (base n : Nat) (hn : n ≤ r.toNat) :
    (s.setReg r v).storeRegs base n = (s.storeRegs base n).setReg r v := by
  induction n with
  | zero => rfl
  | succ n ih =>
    have hr : BitVec.ofNat 4 n ≠ r := by
      rintro rfl
      have := Nat.mod_le n (2 ^ 4)
      rw [BitVec.toNat_ofNat] at hn
      omega
    simp only [State.storeRegs, ih (by omega), reg_setReg_other s v hr]
    rfl

theorem faultOf_setReg {i : Instr} {r : RegIx} (hr : mayReadReg i r = false) (s : State) (v : Byte) :
    faultOf i (s.setReg r v) = faultOf i s := by
  cases i with
  | skp x | sknp x =>
    have hx : x ≠ r := by simpa [mayReadReg, eq_comm] using hr
    simp only [faultOf, reg_setReg_other s v hx]
  | _ => rfl

/-- An instruction that does not read x[r] completes the same way whatever x[r] holds. -/
theorem completed_setReg {i : Instr} {r : RegIx} (hr : mayReadReg i r = false) {s : State} (hf : faultOf i s = none)
    (v : Byte) :
    SameButReg r (completed i s) (completed i (s.setReg r v)) := by
  have h0 := SameButReg.of_setReg s r v
  have hread : ∀ q, mayReadReg i q = true → (s.setReg r v).reg q = s.reg q := fun q hq =>
    reg_setReg_other s v (by rintro rfl; exact absurd hq (by simp [hr]))
  cases i with
  | cls | ret | jp | ldI => exact ⟨v, rfl⟩
  | call nnn =>
    have hsp := sp_lt_of_call hf
    rw [completed_call nnn hsp, completed_call nnn (s := s.setReg r v) hsp]
    exact ⟨v, rfl⟩
  | jpV0 nnn =>
    simp only [completed, hread 0 (by simp [mayReadReg])]
    exact ⟨v, rfl⟩
  | seImm x | sneImm x | skp x | sknp x | ldDTVx x | ldSTVx x | addI x | ldF x | ldB x =>
    simp only [completed, hread x (by simp [mayReadReg])]
    exact ⟨v, rfl⟩
  | seReg x y | sneReg x y =>
    simp only [completed, hread x (by simp [mayReadReg]), hread y (by simp [mayReadReg])]
    exact ⟨v, rfl⟩
  | ldImm | ldVxDT => exact (h0.setReg _ _).advance 2
  | rnd => exact ((h0.setReg _ _).advance 2).map State.nextDraw fun _ _ => rfl
  | addImm x =>
    simp only [completed, hread x (by simp [mayReadReg])]
    exact (h0.setReg _ _).advance 2
  | ldReg x y =>
    simp only [completed, hread y (by simp [mayReadReg])]
    exact (h0.setReg _ _).advance 2
  | orReg x y | andReg x y | xorReg x y =>
    simp only [completed, hread x (by simp [mayReadReg]), hread y (by simp [mayReadReg])]
    exact (h0.setReg _ _).advance 2
  | shr x | shl x =>
    simp only [completed, hread x (by simp [mayReadReg])]
    exact (h0.setFlagThenReg _ _ _).advance 2
  | addReg x y | subReg x y | subnReg x y =>
    simp only [completed, hread x (by simp [mayReadReg]), hread y (by simp [mayReadReg])]
    exact (h0.setFlagThenReg _ _ _).advance 2
  | drw x y n =>
    have hd : drawn (s.setReg r v) x y n.toNat = drawn s x y n.toNat := by
      simp only [drawn, hread x (by simp [mayReadReg]), hread y (by simp [mayReadReg])]
      rfl
    simp only [completed, hd]
    exact ((h0.map (·.paint _) fun _ _ => rfl).setReg _ _).advance 2
  | ldVxK x => exact h0.takeKey x (lowestPressed s)
  | stRegs x =>
    have hx : x.toNat + 1 ≤ r.toNat := by simpa [mayReadReg, BitVec.lt_def] using hr
    simp only [completed]
    exact ⟨v, congrArg (fun u => (u.bumpI x).advance 2) (storeRegs_setReg s v _ _ hx)⟩
  | ldRegs x => exact ((h0.loadRegs _ _).map (·.bumpI x) fun _ _ => rfl).advance 2

/-- Settles O25. -/
theorem registersReadAreThoseOfTheTable : Obligations.RegistersReadAreThoseOfTheTable := by
  intro i s t r v hr h
  obtain ⟨hf, rfl⟩ | ⟨f, hf, rfl⟩ := exec_next_cases h
  · rw [exec_of_faultOf_none ((faultOf_setReg hr s v).trans hf)]
    obtain ⟨w, hw⟩ := completed_setReg hr hf v
    exact ⟨w, by rw [hw]⟩
  · exact ⟨v, exec_of_faultOf_some ((faultOf_setReg hr s v).trans hf)⟩

end Sys2Proof.Machine
end

section
/-! PROOFS. What no instruction can observe (10_state.md R31, R33): the sound timer and stale stack entries. -/

namespace Sys2Proof.Machine

/-! ### Block transfers commute with an update of what they do not read -/

theorem storeRegs_comm (f : State → State) (hr : ∀ s r, (f s).reg r = s.reg r)
    (hb : ∀ s a v, (f s).storeByte a v = f (s.storeByte a v)) (s : State) (base n : Nat) :
    (f s).storeRegs base n = f (s.storeRegs base n) := by
  induction n with
  | zero => rfl
  | succ n ih => simp only [State.storeRegs, ih, hr, hb]

theorem loadRegs_comm (f : State → State) (hl : ∀ s a, (f s).loadByte a = s.loadByte a)
    (hr : ∀ s r v, (f s).setReg r v = f (s.setReg r v)) (s : State) (base n : Nat) :
    (f s).loadRegs base n = f (s.loadRegs base n) := by
  induction n with
  | zero => rfl
  | succ n ih => simp only [State.loadRegs, ih, hl, hr]

/-! ### The sound timer -/

theorem completed_with_ST {i : Instr} {s : State} (hf : faultOf i s = none) (v : Byte) :
    ∃ w, completed i { s with ST := v } = { completed i s with ST := w } := by
  cases i with
  | call nnn =>
    have hsp := sp_lt_of_call hf
    rw [completed_call nnn hsp, completed_call nnn (s := { s with ST := v }) hsp]
    exact ⟨v, rfl⟩
  | ldSTVx x => exact ⟨s.reg x, rfl⟩
  | ldVxK x =>
    have hk : lowestPressed { s with ST := v } = lowestPressed s := rfl
    simp only [completed, hk]
    cases lowestPressed s <;> exact ⟨v, rfl⟩
  | stRegs x =>
    have hs := storeRegs_comm (fun s => { s with ST := v }) (fun _ _ => rfl) (fun _ _ _ => rfl) s
    exact ⟨v, congrArg (fun u => (u.bumpI x).advance 2) (hs _ _)⟩
  | ldRegs x =>
    have hl := loadRegs_comm (fun s => { s with ST := v }) (fun _ _ => rfl) (fun _ _ _ => rfl) s
    exact ⟨v, congrArg (fun u => (u.bumpI x).advance 2) (hl _ _)⟩
  | _ => exact ⟨v, rfl⟩

/-- Settles O28: which fault an instruction raises does not depend on ST, nor does what it completes to but for ST. -/
theorem soundTimerIsReadByNoInstruction : Obligations.SoundTimerIsReadByNoInstruction := by
  intro i s t v h
  obtain ⟨hf, rfl⟩ | ⟨f, hf, rfl⟩ := exec_next_cases h
  · obtain ⟨w, hw⟩ := completed_with_ST hf v
    exact ⟨w, hw ▸ exec_of_faultOf_none (s := { s with ST := v }) hf⟩
  · exact ⟨v, exec_of_faultOf_some (s := { s with ST := v }) hf⟩

/-! ### Stale stack entries -/

/-- `u` is `t` but for stack entries that are not in use. -/
def SameButStale (t u : State) : Prop :=
  ∃ stk : Vector Word 16, u = { t with stack := stk } ∧ ∀ j : Fin 16, j.val < t.sp.val → stk[j] = t.stack[j]

namespace SameButStale

variable {t u : State}

/-- An update that leaves the stack alone and reads nothing of it. -/
theorem map (h : SameButStale t u) (f : State → State)
    (hf : ∀ (s : State) (stk : Vector Word 16), f { s with stack := stk } = { f s with stack := stk })
    (hsp : (f t).sp = t.sp) (hstack : (f t).stack = t.stack) : SameButStale (f t) (f u) := by
  obtain ⟨stk, rfl, hstk⟩ := h
  exact ⟨stk, hf t stk, by rwa [hsp, hstack]⟩

theorem push (h : SameButStale t u) (v : Word) (ht : t.sp.val < 16) (hu : u.sp.val < 16) :
    SameButStale (t.push v ht) (u.push v hu) := by
  obtain ⟨stk, rfl, hstk⟩ := h
  refine ⟨stk.set t.sp.val v, rfl, fun j hj => ?_⟩
  by_cases he : t.sp.val = j.val
  · simp [he]
  · have := hstk j (by simp only [push_sp] at hj; omega)
    simpa [Vector.getElem_set, he] using this

theorem top (h : SameButStale t u) (hsp : t.sp.val ≠ 0) : u.top = t.top := by
  obtain ⟨stk, rfl, hstk⟩ := h
  exact hstk ⟨t.sp.val - 1, by omega⟩ (by simp only; omega)

theorem pop (h : SameButStale t u) : SameButStale t.pop u.pop := by
  obtain ⟨stk, rfl, hstk⟩ := h
  exact ⟨stk, rfl, fun j hj => hstk j (by simp only [pop_sp] at hj; omega)⟩

theorem setPc (h : SameButStale t u) (v : Word) : SameButStale (t.setPc v) (u.setPc v) :=
  h.map (·.setPc v) (fun _ _ => rfl) rfl rfl

theorem tick (h : SameButStale t u) : SameButStale t.tick u.tick :=
  h.map State.tick (fun _ _ => by rw [tick_eq, tick_eq]) (tick_sp t) (tick_stack t)

theorem withFault (h : SameButStale t u) (f : Fault) : SameButStale (t.withFault f) (u.withFault f) :=
  h.map (·.withFault f) (fun _ _ => rfl) rfl rfl

theorem emit (h : SameButStale t u) (e : Event) : SameButStale (t.emit e) (u.emit e) :=
  h.map (·.emit e) (fun _ _ => rfl) rfl rfl

end SameButStale

/-- An instruction that does not write sp reads nothing of the stack and leaves it alone. -/
theorem completed_with_stack {i : Instr} (hw : Part.sp ∉ writtenParts i) (s : State) (stk : Vector Word 16) :
    completed i { s with stack := stk } = { completed i s with stack := stk } := by
  cases i with
  | call | ret => exact absurd (by simp [writtenParts]) hw
  | ldVxK x =>
    have hk : lowestPressed { s with stack := stk } = lowestPressed s := rfl
    simp only [completed, hk]
    cases lowestPressed s <;> rfl
  | stRegs x =>
    have hs := storeRegs_comm (fun s => { s with stack := stk }) (fun _ _ => rfl) (fun _ _ _ => rfl) s
    exact congrArg (fun u => (u.bumpI x).advance 2) (hs _ _)
  | ldRegs x =>
    have hl := loadRegs_comm (fun s => { s with stack := stk }) (fun _ _ => rfl) (fun _ _ _ => rfl) s
    exact congrArg (fun u => (u.bumpI x).advance 2) (hl _ _)
  | _ => rfl

/-- An instruction that completes reads no stale entry, and entries that were stale are stale or overwritten after it. -/
theorem completed_sameButStale {i : Instr} {s u : State} (h : SameButStale s u) (hf : faultOf i s = none) :
    SameButStale (completed i s) (completed i u) := by
  by_cases hsp : Part.sp ∈ writtenParts i
  · obtain rfl | ⟨nnn, rfl⟩ := sp_mem_writtenParts.1 hsp
    · simp only [completed, h.top (sp_ne_zero_of_ret hf)]
      exact h.pop.setPc _
    · have hlt := sp_lt_of_call hf
      obtain ⟨stk, rfl, -⟩ := id h
      rw [completed_call nnn hlt, completed_call nnn (s := { s with stack := stk }) hlt]
      exact (h.push s.pc hlt hlt).setPc _
  · have hstack : Part.stack ∉ writtenParts i := fun hk =>
      hsp (sp_mem_writtenParts.2 (.inr (stack_mem_writtenParts.1 hk)))
    have hc := completed_unchanged i s
    exact h.map (completed i) (completed_with_stack hsp) (hc.sp hsp) (hc.stack hstack)

/-- Settles O27, outcome by outcome of a step: none reads a stale entry or brings one into use. -/
theorem staleStackEntriesAreUnobservable : Obligations.StaleStackEntriesAreUnobservable := by
  intro s t stk hstk h
  have h0 : SameButStale s.clearEvents { s with stack := stk }.clearEvents := ⟨stk, rfl, hstk⟩
  suffices hs : ∃ u, step { s with stack := stk } = .next u ∧ SameButStale t u by
    obtain ⟨_, hs, stk', rfl, hstk'⟩ := hs
    exact ⟨stk', hs, hstk'⟩
  obtain ⟨hr, ⟨hpc, rfl⟩ | ⟨hu, rfl⟩ | ⟨i, hi, -⟩⟩ := step_next_cases h
  · exact ⟨_, step_fetch_fault (s := { s with stack := stk }) hr hpc, h0.withFault _⟩
  · exact ⟨_, step_unclassified (s := { s with stack := stk }) hr hu, ((h0.emit _).setPc _).tick⟩
  · cases hf : faultOf i s with
    | none =>
      rw [step_completes hr hi hf] at h
      cases h
      exact ⟨_, step_completes (s := { s with stack := stk }) hr hi hf, (completed_sameButStale h0 hf).tick⟩
    | some f =>
      rw [step_faults hr hi hf] at h
      cases h
      exact ⟨_, step_faults (s := { s with stack := stk }) hr hi hf, h0.withFault f⟩

end Sys2Proof.Machine
end

section
/-! PROOFS. The values after initialization (10_state.md R40), and that a load leaves all but the program region. -/

namespace Sys2Proof.Machine

/-! ### Bytes written in order -/

theorem Unchanged.storeBytes {regs : List RegIx} {parts : List Part} {stored : Nat → Prop} {s t : State}
    (h : Unchanged regs parts stored s t) (a : Nat) (bytes : List Byte)
    (ha : ∀ k, k < bytes.length → stored (a + k)) : Unchanged regs parts stored s (t.storeBytes a bytes) := by
  induction bytes generalizing a t with
  | nil => exact h
  | cons v vs ih =>
    refine ih (h.storeByte v (ha 0 (by simp))) (a + 1) fun k hk => ?_
    have := ha (k + 1) (by simpa using hk)
    rwa [show a + 1 + k = a + (k + 1) by omega]

/-- A load writes no byte outside the program region and nothing but memory (70_reset_and_hazards.md R244). -/
theorem load_unchanged {bytes : List Byte} {s t : State} (h : load bytes s = .loaded t) :
    Unchanged [] [] (storedRange 512 (512 + bytes.length - 1)) s t := by
  unfold load at h
  split at h
  · cases h
  · cases h
    exact (Unchanged.refl ..).storeBytes 512 bytes fun k hk => by simp only [storedRange]; omega

/-- Settles O30, element by element of the initial state; a load is bounded by its frame. -/
theorem valuesAfterInitialization : Obligations.ValuesAfterInitialization := by
  refine ⟨fun cfg => ⟨fun a ha => loadByte_initial_font cfg ha, fun a ha => ?_, fun r => ?_, rfl, rfl, ?_, rfl, rfl, rfl,
    fun k => ?_, ?_, rfl, rfl, rfl, fun bytes t ht => load_unchanged ht⟩, rfl⟩
  · rw [loadByte_initial, resetByte, dif_neg (by omega)]
  · simp [State.reg, State.initial]
  · simp [State.initial]
  · simp [cell, State.initial]
  · simp [State.initial]

end Sys2Proof.Machine
end

section
/-! PROOFS. Memory (20_memory.md): the font table, the canonical form, checked accesses, and stored instruction words. -/

namespace Sys2Proof.Machine

/-! ### The canonical form -/

/-- With rising addresses, the byte listed for an address is the one a lookup finds. -/
theorem lookup_eq_some_iff {m : Memory} (hm : m.Pairwise fun c d => c.1 < d.1) {a : Nat} {v : Byte} :
    m.lookup a = some v ↔ (a, v) ∈ m := by
  induction m with
  | nil => simp [Memory.lookup]
  | cons c m ih =>
    obtain ⟨hlt, hm'⟩ := List.pairwise_cons.1 hm
    by_cases hc : c.1 = a
    · have hnot : (a, v) ∉ m := fun hmem => absurd (hlt _ hmem) (by simp [hc])
      simp [Memory.lookup, hc, hnot, Prod.ext_iff, eq_comm]
    · have hne : (a, v) ≠ c := fun e => hc (by simp [← e])
      simp [Memory.lookup, hc, hne, ih hm']

/-- Canonical memory lists exactly the bytes that read otherwise than the reset contents. -/
theorem mem_iff_load {cfg : Config} {m : Memory} (hm : Memory.wf cfg m) {a : Nat} {v : Byte} :
    (a, v) ∈ m ↔ Memory.load cfg m a = v ∧ v ≠ resetByte cfg a := by
  obtain ⟨hsort, hlisted⟩ := hm
  rw [← lookup_eq_some_iff hsort, Memory.load]
  cases hl : m.lookup a with
  | none => simpa using fun h => h.symm
  | some w =>
    have hw : w ≠ resetByte cfg a := (hlisted _ ((lookup_eq_some_iff hsort).1 hl)).2
    simpa using fun h => h ▸ hw

theorem wf_nodup {cfg : Config} {m : Memory} (hm : Memory.wf cfg m) : m.Nodup :=
  hm.1.imp fun hlt => ne_of_apply_ne Prod.fst hlt.ne

/-- Settles O33: canonical memories that read alike list the same cells, in the same rising order. -/
theorem canonicalMemoryIsUnique : Obligations.CanonicalMemoryIsUnique := by
  intro cfg m m' hm hm' hload
  have hmem : ∀ c, c ∈ m ↔ c ∈ m' := fun c => by rw [mem_iff_load hm, mem_iff_load hm', hload]
  have hperm : m.Perm m' := (List.perm_ext_iff_of_nodup (wf_nodup hm) (wf_nodup hm')).2 hmem
  exact hperm.eq_of_pairwise (fun _ _ _ _ h h' => absurd h h'.asymm) hm.1 hm'.1

/-! ### Checked accesses -/

theorem memRead_eq_ok (s : State) {a : Nat} (ha : a ≤ 4095) : memRead s a = .ok (s.loadByte a) :=
  if_neg (by omega)

theorem memRead_eq_error (s : State) {a : Nat} (ha : 4095 < a) : memRead s a = .error (.dataAddress a) :=
  if_pos ha

theorem memWrite_eq_ok {s : State} {a : Nat} (v : Byte) (ha : a ≤ 4095) (hfont : ¬ (a < 80 ∧ s.cfg.fontWrite = .fault)) :
    memWrite s a v = .ok (s.storeByte a v) := by
  rw [memWrite, if_neg (by omega), if_neg hfont]

theorem memWrite_font {s : State} {a : Nat} (v : Byte) (ha : a < 80) (hw : s.cfg.fontWrite = .fault) :
    memWrite s a v = .error (.fontWrite a) := by
  rw [memWrite, if_neg (by omega), if_pos ⟨ha, hw⟩]

/-- Settles O34: a passed check bounds every access of its range; a failed one names the first address past memory,
or the first of the range, which then lies in the font. -/
theorem checkedAccessesNeverFault : Obligations.CheckedAccessesNeverFault := by
  intro s lo hi kind hle
  refine ⟨fun hpass a v hlo hhi => ?_, fun f hfail => ?_⟩
  · obtain ⟨hmax, hfont⟩ := checkRange_eq_none.1 hpass
    refine ⟨memRead_eq_ok s (by omega), fun hk => ⟨s.storeByte a v, ?_, loadByte_storeByte_same s a v, ?_⟩⟩
    · exact memWrite_eq_ok v (by omega) fun ⟨ha, hw⟩ => hfont ⟨hk, by omega, hw⟩
    · exact (Unchanged.refl ..).storeByte v ⟨le_rfl, le_rfl⟩
  · obtain ⟨hmax, rfl⟩ | ⟨hmax, ⟨hk, hlow, hw⟩, rfl⟩ := checkRange_eq_some.1 hfail
    · exact ⟨max lo 4096, by omega, by omega, .inl ⟨memRead_eq_error s (by omega), rfl⟩,
        fun b _ hb => memRead_eq_ok s (by omega)⟩
    · exact ⟨lo, le_rfl, hle, .inr ⟨hk, rfl, fun v => memWrite_font v hlow hw⟩,
        fun b _ hb => memRead_eq_ok s (by omega)⟩

/-! ### The step -/

@[simp] theorem tick_loadByte (s : State) (a : Nat) : s.tick.loadByte a = s.loadByte a := by
  simp only [State.loadByte, tick_mem, tick_cfg]

/-- Settles O22: a completed instruction stores to no font byte, and nothing else of a step writes memory. -/
theorem fontTableNeverAltered : Obligations.FontTableNeverAltered := by
  intro s t hw h a ha
  obtain ⟨-, f, rfl⟩ | ⟨-, -, rfl⟩ | ⟨i, -, hf, -, rfl⟩ := step_next_outcomes h
  · rfl
  · simp
  · rw [tick_loadByte]
    exact (completed_unchanged i s.clearEvents).mem a (not_storedAddrs_font (by simpa using hf) hw ha)

/-- LD [I],Vx leaves x[k] at address I + k for k = 0..X (43_index_memory.md R165). -/
theorem loadByte_completed_stRegs {s : State} {x : RegIx} {a : Nat} (hlo : s.I.toNat ≤ a)
    (hhi : a ≤ s.I.toNat + x.toNat) :
    (completed (.stRegs x) s).loadByte a = s.reg (BitVec.ofNat 4 (a - s.I.toNat)) := by
  have hst := loadByte_storeRegs s (effectiveAddr s 0) (x.toNat + 1) a
  rw [if_pos (by simp only [effectiveAddr]; omega)] at hst
  exact hst

/-- Settles O35: the two bytes at the new pc are bytes of the block the step stored. -/
theorem storeIsSeenByTheNextFetch : Obligations.StoreIsSeenByTheNextFetch := by
  intro s t x hi h hn hlo hhi
  have hpc : t.pc = s.pc + 2 := by
    obtain ⟨htable, -, -⟩ := programCounterTable s t h
    exact htable _ hi hn
  have hpc' : t.pc.toNat = s.pc.toNat + 2 := by
    have := hi.1
    bv_omega
  obtain ⟨-, f, rfl⟩ | ⟨hu, -, -⟩ | ⟨j, hj, -, -, rfl⟩ := step_next_outcomes h
  · cases hn
  · exact absurd hu hi.not_unclassified
  · obtain rfl := hi.unique hj
    have hbyte : ∀ a, s.I.toNat ≤ a → a ≤ s.I.toNat + x.toNat →
        (completed (.stRegs x) s.clearEvents).tick.loadByte a = s.reg (BitVec.ofNat 4 (a - s.I.toNat)) :=
      fun a h1 h2 => (tick_loadByte _ a).trans (loadByte_completed_stRegs h1 h2)
    rw [wordAtPc, hpc', hbyte _ hlo (by omega), hbyte _ (by omega) hhi]

end Sys2Proof.Machine
end

section
/-! PROOFS. Encoding (30_encoding.md): the routing key decides the row, and a word is its fields but for ignored bits. -/

namespace Sys2Proof.Laws

/-! ### A word from its fields (R71) -/

theorem wordNNN_fields (w : Word) : wordNNN (fieldF w) (fieldNNN w) = w :=
  BitVec.extractLsb'_append_extractLsb' (w := 4) (len := 12)

theorem wordXNN_fields (w : Word) : wordXNN (fieldF w) (fieldX w) (fieldNN w) = w := by
  have hFX : fieldF w ++ fieldX w = w.extractLsb' 8 8 := BitVec.extractLsb'_append_extractLsb'_eq_extractLsb' rfl
  rw [wordXNN, hFX]
  exact BitVec.extractLsb'_append_extractLsb' (w := 8) (len := 8)

theorem fieldYN_append (w : Word) : fieldY w ++ fieldN w = fieldNN w :=
  BitVec.extractLsb'_append_extractLsb'_eq_extractLsb' rfl

theorem wordXYN_fields (w : Word) : wordXYN (fieldF w) (fieldX w) (fieldY w) (fieldN w) = w :=
  calc wordXYN (fieldF w) (fieldX w) (fieldY w) (fieldN w)
    _ = fieldF w ++ fieldX w ++ (fieldY w ++ fieldN w) := by rw [wordXYN, BitVec.append_assoc]; rfl
    _ = w := by rw [fieldYN_append]; exact wordXNN_fields w

/-! ### The routing key (R74, R75) -/

/-- The bits of a word that select its handler, by family (R74). -/
def familyMask (f : BitVec 4) : Word :=
  if f = 0x0 then 0xF00F else if f = 0x8 then 0xF00F else if f = 0xE ∨ f = 0xF then 0xF0FF else 0xF000

theorem routingKey_eq (w : Word) : routingKey w = w &&& familyMask (fieldF w) := by
  simp only [routingKey, familyMask, apply_ite (w &&& ·)]

theorem mask_eq (i : Instr) : i.mask = familyMask (fieldF i.pattern) := by
  cases i <;> simp only [Instr.mask, Instr.pattern] <;> decide

/-- A word has the routing key of a row exactly when it matches the row. -/
theorem routingKey_eq_pattern_iff {w : Word} {i : Instr} : routingKey w = i.pattern ↔ w &&& i.mask = i.pattern := by
  refine ⟨fun h => ?_, routingKey_of_pattern i⟩
  rw [mask_eq, ← h, fieldF_routingKey, ← routingKey_eq]

theorem routingKey_routingKey (w : Word) : routingKey (routingKey w) = routingKey w := by
  rw [routingKey_eq (routingKey w), fieldF_routingKey, routingKey_eq, BitVec.and_assoc, BitVec.and_self]

theorem routingKey_of_decode {w : Word} {i : Instr} (h : decode w = .ok i) : routingKey w = i.pattern :=
  routingKey_eq_pattern_iff.2 (decode_row h)

/-- A word with the routing key of a row decodes to an instruction of that row. -/
theorem decode_of_routingKey {w : Word} {i : Instr} (h : routingKey w = i.pattern) :
    ∃ j, decode w = .ok j ∧ j.pattern = i.pattern := by
  rw [decode, h]
  cases i <;> exact ⟨_, rfl, rfl⟩

theorem decode_error {w : Word} {r : Reject} (h : decode w = .error r) : r = .unclassified w := by
  unfold decode at h
  split at h <;> cases h
  rfl

/-- The row a word selects is a function of its routing key. -/
theorem selectedPattern_iff {w p : Word} :
    (decode w).toOption.map Instr.pattern = some p ↔ routingKey w = p ∧ ∃ i : Instr, i.pattern = p := by
  constructor
  · intro h
    cases hd : decode w with
    | error r => simp [hd, Except.toOption] at h
    | ok i =>
      obtain rfl : i.pattern = p := by simpa [hd, Except.toOption] using h
      exact ⟨routingKey_of_decode hd, i, rfl⟩
  · rintro ⟨hk, i, rfl⟩
    obtain ⟨j, hd, hj⟩ := decode_of_routingKey hk
    simp [hd, hj, Except.toOption]

theorem selectedPattern_congr {v w : Word} (h : routingKey v = routingKey w) :
    (decode v).toOption.map Instr.pattern = (decode w).toOption.map Instr.pattern :=
  Option.ext fun p => by rw [selectedPattern_iff, selectedPattern_iff, h]

/-! ### Decoding an encoded instruction -/

theorem encode_row : (i : Instr) → encode i &&& i.mask = i.pattern
  | .cls => Encoding.cls | .ret => Encoding.ret | .jp n => Encoding.jp n | .call n => Encoding.call n
  | .seImm x n => Encoding.seImm x n | .sneImm x n => Encoding.sneImm x n | .seReg x y => Encoding.seReg x y
  | .ldImm x n => Encoding.ldImm x n | .addImm x n => Encoding.addImm x n | .ldReg x y => Encoding.ldReg x y
  | .orReg x y => Encoding.orReg x y | .andReg x y => Encoding.andReg x y | .xorReg x y => Encoding.xorReg x y
  | .addReg x y => Encoding.addReg x y | .subReg x y => Encoding.subReg x y | .shr x => Encoding.shr x
  | .subnReg x y => Encoding.subnReg x y | .shl x => Encoding.shl x | .sneReg x y => Encoding.sneReg x y
  | .ldI n => Encoding.ldI n | .jpV0 n => Encoding.jpV0 n | .rnd x n => Encoding.rnd x n
  | .drw x y n => Encoding.drw x y n | .skp x => Encoding.skp x | .sknp x => Encoding.sknp x
  | .ldVxDT x => Encoding.ldVxDT x | .ldVxK x => Encoding.ldVxK x | .ldDTVx x => Encoding.ldDTVx x
  | .ldSTVx x => Encoding.ldSTVx x | .addI x => Encoding.addI x | .ldF x => Encoding.ldF x | .ldB x => Encoding.ldB x
  | .stRegs x => Encoding.stRegs x | .ldRegs x => Encoding.ldRegs x

/-- The encoded word has the key of its instruction's row, and the fields read from it are the operands. -/
theorem decode_encode (i : Instr) : decode (encode i) = .ok i := by
  rw [decode, routingKey_of_pattern i (encode_row i)]
  cases i <;>
    simp [Instr.pattern, encode, fieldNNN_wordNNN, fieldX_wordXNN, fieldNN_wordXNN, fieldX_wordXYN, fieldY_wordXYN,
      fieldN_wordXYN]

theorem encode_injective : Function.Injective encode := fun i j h =>
  Except.ok.inj ((decode_encode i).symm.trans (h ▸ decode_encode j))

/-- Settles O1: the word of an instruction decodes to it, and its two bytes make up that word again. -/
theorem decodeInvertsEncode : Obligations.DecodeInvertsEncode := by
  intro i rest _
  refine ⟨decode_encode i, ?_⟩
  simp only [encodeBytes, List.cons_append, List.nil_append, decodeBytes, wordOfBytes_bytes, decode_encode]

/-- Settles O3: a row that a word matches has the word's key as its pattern, so it is the only one, and a word without
a row's key is refused. -/
theorem everyWordSelectsOneRowOrNone : Obligations.EveryWordSelectsOneRowOrNone := by
  refine ⟨fun w => ?_, fun v w hkey => ?_⟩
  · cases hd : decode w with
    | ok i =>
      refine .inl ⟨i, rfl, decode_row hd, fun j hj => ?_⟩
      have hpat : j.pattern = i.pattern := (routingKey_of_pattern j hj).symm.trans (routingKey_of_decode hd)
      exact ⟨hpat, by rw [mask_eq, mask_eq, hpat]⟩
    | error r =>
      refine .inr ⟨by rw [decode_error hd], fun j hj => ?_⟩
      obtain ⟨k, hk, -⟩ := decode_of_routingKey (routingKey_of_pattern j hj)
      rw [hd] at hk
      cases hk
  · exact selectedPattern_congr hkey

end Sys2Proof.Laws
end

section
/-! PROOFS. Encoding (30_encoding.md): the unclassified words by family, and ignored bits. -/

namespace Sys2Proof.Laws

/-! ### The fields of a routing key (R74) -/

theorem fieldX_and (w m : Word) : fieldX (w &&& m) = fieldX w &&& fieldX m := BitVec.extractLsb'_and

theorem fieldN_and (w m : Word) : fieldN (w &&& m) = fieldN w &&& fieldN m := BitVec.extractLsb'_and

theorem fieldNN_and (w m : Word) : fieldNN (w &&& m) = fieldNN w &&& fieldNN m := BitVec.extractLsb'_and

theorem fieldX_routingKey (w : Word) : fieldX (routingKey w) = 0 := by
  have hmask : ∀ f, fieldX (familyMask f) = 0 := by decide
  rw [routingKey_eq, fieldX_and, hmask]
  exact BitVec.and_zero

theorem fieldN_routingKey {w : Word} (h : fieldN (familyMask (fieldF w)) = 0xF) : fieldN (routingKey w) = fieldN w := by
  rw [routingKey_eq, fieldN_and, h, and_nibble]

theorem fieldNN_routingKey {w : Word} (h : fieldNN (familyMask (fieldF w)) = 0xFF) :
    fieldNN (routingKey w) = fieldNN w := by
  rw [routingKey_eq, fieldNN_and, h]
  exact BitVec.and_allOnes

theorem fieldNN_routingKey_nibble {w : Word} (h : fieldNN (familyMask (fieldF w)) = 0x0F) :
    fieldNN (routingKey w) = (0 : BitVec 4) ++ fieldN w := by
  have hmask : (0x0F : Byte) = (0 : BitVec 4) ++ (0xF : BitVec 4) := by decide
  rw [routingKey_eq, fieldNN_and, h, ← fieldYN_append, hmask, BitVec.and_append, and_nibble]
  exact congrArg (· ++ fieldN w) BitVec.and_zero

theorem fieldNN_routingKey_zero {w : Word} (h : fieldNN (familyMask (fieldF w)) = 0) : fieldNN (routingKey w) = 0 := by
  rw [routingKey_eq, fieldNN_and, h]
  exact BitVec.and_zero

/-! ### The selectors of a family (R75, R78) -/

/-- The low bytes of the keys of a family's rows (R75). -/
def selectors (f : BitVec 4) : List Byte :=
  if f = 0x0 then [0x0, 0xE]
  else if f = 0x8 then [0x0, 0x1, 0x2, 0x3, 0x4, 0x5, 0x6, 0x7, 0xE]
  else if f = 0xE then [0x9E, 0xA1]
  else if f = 0xF then [0x07, 0x0A, 0x15, 0x18, 0x1E, 0x29, 0x33, 0x55, 0x65]
  else [0x0]

theorem selectors_single_row {f : BitVec 4} (h0 : f ≠ 0x0) (h8 : f ≠ 0x8) (hE : f ≠ 0xE) (hF : f ≠ 0xF) :
    selectors f = [0x0] ∧ fieldNN (familyMask f) = 0 := by
  revert f; decide

theorem pattern_selector (i : Instr) : fieldNN i.pattern ∈ selectors (fieldF i.pattern) := by
  cases i <;> simp only [Instr.pattern] <;> decide

theorem selectedPattern_of_mem_selectors :
    ∀ f : BitVec 4, ∀ nn ∈ selectors f, ((decode (wordXNN f 0 nn)).toOption.map Instr.pattern).isSome = true := by
  decide

/-- A word is unclassified exactly when the low byte of its key is no selector of its family: keys decide, and
each selector is that of a row. -/
theorem decode_error_iff {w : Word} : (∃ r, decode w = .error r) ↔ fieldNN (routingKey w) ∉ selectors (fieldF w) := by
  constructor
  · rintro ⟨r, hr⟩ hmem
    have hrow := selectedPattern_of_mem_selectors _ _ hmem
    have hkey : wordXNN (fieldF w) 0 (fieldNN (routingKey w)) = routingKey w := by
      have hfields := wordXNN_fields (routingKey w)
      rwa [fieldF_routingKey, fieldX_routingKey] at hfields
    rw [hkey, selectedPattern_congr (routingKey_routingKey w), hr] at hrow
    cases hrow
  · intro hn
    cases hd : decode w with
    | error r => exact ⟨r, rfl⟩
    | ok i =>
      have hmem := pattern_selector i
      rw [← routingKey_of_decode hd, fieldF_routingKey] at hmem
      exact absurd hmem hn

/-- Settles O4, family by family: what part of the low byte its key keeps, against its selectors. -/
theorem unclassifiedWordsByFamily : Obligations.UnclassifiedWordsByFamily := by
  intro w
  rw [decode_error_iff]
  by_cases h0 : fieldF w = 0x0
  · have hsel : ∀ n : BitVec 4, (0 : BitVec 4) ++ n ∉ selectors 0x0 ↔ n ∉ [0x0, 0xE] := by decide
    rw [fieldNN_routingKey_nibble (by rw [h0]; decide), h0, hsel]
    simp
  by_cases h8 : fieldF w = 0x8
  · have hsel : ∀ n : BitVec 4,
        (0 : BitVec 4) ++ n ∉ selectors 0x8 ↔ n ∈ [0x8, 0x9, 0xA, 0xB, 0xC, 0xD, 0xF] := by decide
    rw [fieldNN_routingKey_nibble (by rw [h8]; decide), h8, hsel]
    simp
  by_cases hE : fieldF w = 0xE
  · rw [fieldNN_routingKey (by rw [hE]; decide), hE]
    simp [selectors]
  by_cases hF : fieldF w = 0xF
  · rw [fieldNN_routingKey (by rw [hF]; decide), hF]
    simp [selectors]
  obtain ⟨hsel, hmask⟩ := selectors_single_row h0 h8 hE hF
  rw [fieldNN_routingKey_zero hmask, hsel]
  refine iff_of_false (by simp) ?_
  rintro (⟨h, -⟩ | ⟨h, -⟩ | ⟨h, -⟩ | ⟨h, -⟩) <;> contradiction

/-! ### Ignored bits (R73, R79) -/

theorem ignoredBits_routingKey (w : Word) : ignoredBits (routingKey w) = ignoredBits w := by
  have hF : (routingKey w).extractLsb' 12 4 = w.extractLsb' 12 4 := fieldF_routingKey w
  rw [ignoredBits, ignoredBits, hF]
  by_cases h8 : fieldF w = 0x8
  · have hN : (routingKey w).extractLsb' 0 4 = w.extractLsb' 0 4 := fieldN_routingKey (by rw [h8]; decide)
    rw [hN]
  · split
    case h_4 h => exact absurd (BitVec.eq_of_toNat_eq h) h8
    all_goals rfl

theorem assembledBits_routingKey (w : Word) : assembledBits (routingKey w) = assembledBits w := by
  have hF : (routingKey w).extractLsb' 12 4 = w.extractLsb' 12 4 := fieldF_routingKey w
  rw [assembledBits, assembledBits, hF]

/-! ### A word that decodes, from the operands (R73, R75) -/

theorem fieldF_wordXNN (f : BitVec 4) (x : RegIx) (nn : Byte) : fieldF (wordXNN f x nn) = f :=
  (high_append (f ++ x) nn 4 4).trans ((high_append f x 0 4).trans BitVec.extractLsb'_eq_self)

theorem fieldF_wordXYN (f : BitVec 4) (x y : RegIx) (n : BitVec 4) : fieldF (wordXYN f x y n) = f :=
  (high_append (f ++ x ++ y) n 8 4).trans
    ((high_append (f ++ x) y 4 4).trans ((high_append f x 0 4).trans BitVec.extractLsb'_eq_self))

theorem wordNNN_of_family {w : Word} {f : BitVec 4} (hF : fieldF w = f) : wordNNN f (fieldNNN w) = w :=
  hF ▸ wordNNN_fields w

theorem wordXNN_of_family {w : Word} {f : BitVec 4} (hF : fieldF w = f) : wordXNN f (fieldX w) (fieldNN w) = w :=
  hF ▸ wordXNN_fields w

theorem wordXYN_of_family {w : Word} {f : BitVec 4} (hF : fieldF w = f) :
    wordXYN f (fieldX w) (fieldY w) (fieldN w) = w :=
  hF ▸ wordXYN_fields w

theorem wordXNN_of_routingKey {w : Word} {f : BitVec 4} {nn : Byte} (hk : routingKey w = wordXNN f 0 nn)
    (hm : fieldNN (familyMask f) = 0xFF) : wordXNN f (fieldX w) nn = w := by
  have hF : fieldF w = f := by rw [← fieldF_routingKey, hk, fieldF_wordXNN]
  have hNN : fieldNN w = nn := by rw [← fieldNN_routingKey (by rw [hF, hm]), hk, fieldNN_wordXNN]
  rw [← hNN, wordXNN_of_family hF]

theorem wordXYN_of_routingKey {w : Word} {f n : BitVec 4} (hk : routingKey w = wordXYN f 0 0 n)
    (hm : fieldN (familyMask f) = 0xF) : wordXYN f (fieldX w) (fieldY w) n = w := by
  have hF : fieldF w = f := by rw [← fieldF_routingKey, hk, fieldF_wordXYN]
  have hN : fieldN w = n := by rw [← fieldN_routingKey (by rw [hF, hm]), hk, fieldN_wordXYN]
  rw [← hN, wordXYN_of_family hF]

theorem clear_fieldN {w : Word} {f : BitVec 4} (hF : fieldF w = f) :
    w &&& 0xFFF0 = wordXYN f (fieldX w) (fieldY w) 0 :=
  calc w &&& 0xFFF0
    _ = wordXYN f (fieldX w) (fieldY w) (fieldN w) &&& wordXYN 0xF 0xF 0xF 0 := by
        rw [wordXYN_of_family hF, show (0xFFF0 : Word) = wordXYN 0xF 0xF 0xF 0 by decide]
    _ = wordXYN f (fieldX w) (fieldY w) 0 := by
        rw [wordXYN_and, and_nibble, and_nibble, and_nibble, show fieldN w &&& 0 = 0 from BitVec.and_zero]

theorem clear_fieldY {w : Word} {f n : BitVec 4} (hk : routingKey w = wordXYN f 0 0 n)
    (hm : fieldN (familyMask f) = 0xF) : w &&& 0xFF0F = wordXYN f (fieldX w) 0 n :=
  calc w &&& 0xFF0F
    _ = wordXYN f (fieldX w) (fieldY w) n &&& wordXYN 0xF 0xF 0 0xF := by
        rw [wordXYN_of_routingKey hk hm, show (0xFF0F : Word) = wordXYN 0xF 0xF 0 0xF by decide]
    _ = wordXYN f (fieldX w) 0 n := by
        rw [wordXYN_and, and_nibble, and_nibble, and_nibble, show fieldY w &&& 0 = 0 from BitVec.and_zero]

/-- A row whose ignored bits are assembled as 0, when `m` is what it does not ignore. -/
theorem eq_replaced_of_and {v w k m : Word} (hm : ~~~ ignoredBits k = m) (ha : assembledBits k = 0) (h : w &&& m = v) :
    v = (w &&& ~~~ ignoredBits k) ||| assembledBits k := by
  rw [hm, ha, h]
  exact BitVec.or_zero.symm

/-- A row with no ignored bits. -/
theorem eq_replaced_of_eq {v w k : Word} (hm : ~~~ ignoredBits k = 0xFFFF) (ha : assembledBits k = 0) (h : v = w) :
    v = (w &&& ~~~ ignoredBits k) ||| assembledBits k :=
  eq_replaced_of_and hm ha (BitVec.and_allOnes.trans h.symm)

/-- The operands of a decoded word are its fields, so encoding them gives the word but for its ignored bits. -/
theorem encode_of_decode {w : Word} {i : Instr} (h : decode w = .ok i) :
    encode i = (w &&& ~~~ ignoredBits w) ||| assembledBits w := by
  have hk := routingKey_of_decode h
  have hF : fieldF w = fieldF i.pattern := by rw [← hk, fieldF_routingKey]
  have hrow := decode_row h
  rw [← ignoredBits_routingKey, ← assembledBits_routingKey, hk]
  rw [decode, hk] at h
  cases i with simp only [Instr.pattern] at hk hF ⊢
  | cls | ret => exact congrArg (· ||| 0x00E0) hrow.symm
  | jp | call | ldI | jpV0 =>
    cases h
    exact eq_replaced_of_eq (by decide) (by decide) (wordNNN_of_family (hF.trans (by decide)))
  | seImm | sneImm | ldImm | addImm | rnd =>
    cases h
    exact eq_replaced_of_eq (by decide) (by decide) (wordXNN_of_family (hF.trans (by decide)))
  | skp | sknp | ldVxDT | ldVxK | ldDTVx | ldSTVx | addI | ldF | ldB | stRegs | ldRegs =>
    cases h
    exact eq_replaced_of_eq (by decide) (by decide) (wordXNN_of_routingKey (hk.trans (by decide)) (by decide))
  | drw =>
    cases h
    exact eq_replaced_of_eq (by decide) (by decide) (wordXYN_of_family (hF.trans (by decide)))
  | ldReg | orReg | andReg | xorReg | addReg | subReg | subnReg =>
    cases h
    exact eq_replaced_of_eq (by decide) (by decide) (wordXYN_of_routingKey (hk.trans (by decide)) (by decide))
  | seReg | sneReg =>
    cases h
    exact eq_replaced_of_and (by decide) (by decide) (clear_fieldN (hF.trans (by decide)))
  | shr | shl =>
    cases h
    exact eq_replaced_of_and (by decide) (by decide) (clear_fieldY (hk.trans (by decide)) (by decide))

theorem assembledBits_and_ignoredBits (w : Word) : assembledBits w &&& ignoredBits w = assembledBits w := by
  by_cases hF : w.extractLsb' 12 4 = 0#4
  · simp [assembledBits, ignoredBits, hF]
  · simp [assembledBits, hF]

/-- A word with the assembler's bits in place of its ignored bits is canonical. -/
theorem canonicalWord_encode (i : Instr) : canonicalWord (encode i) = true := by
  have he := encode_of_decode (decode_encode i)
  rw [canonicalWord, beq_iff_eq]
  calc encode i &&& ignoredBits (encode i)
    _ = ((encode i &&& ~~~ ignoredBits (encode i)) ||| assembledBits (encode i)) &&& ignoredBits (encode i) := by
        rw [← he]
    _ = assembledBits (encode i) &&& ignoredBits (encode i) := by
        rw [BitVec.and_or_distrib_right, BitVec.and_assoc, BitVec.not_and_self]; simp
    _ = assembledBits (encode i) := assembledBits_and_ignoredBits _

/-- Settles O2: the word equation by rows; the encoded word is canonical because it decodes to its own instruction. -/
theorem encodeInvertsDecodeButForIgnoredBits : Obligations.EncodeInvertsDecodeButForIgnoredBits :=
  fun _ i h => ⟨encode_of_decode h, decode_row h, canonicalWord_encode i⟩

/-- No row is selected by bits it ignores. -/
theorem ignoredBits_pattern (i : Instr) : i.mask &&& ~~~ ignoredBits i.pattern = i.mask := by
  cases i <;> simp only [Instr.mask, Instr.pattern] <;> decide

/-- Words that agree outside the ignored bits of one that decodes have its routing key. -/
theorem routingKey_of_agree {v w : Word} {i : Instr} (hvw : v &&& ~~~ ignoredBits w = w &&& ~~~ ignoredBits w)
    (h : decode w = .ok i) : routingKey v = routingKey w := by
  have hk := routingKey_of_decode h
  have hand : ∀ u : Word, u &&& i.mask = (u &&& ~~~ ignoredBits w) &&& i.mask := fun u => by
    rw [BitVec.and_assoc, BitVec.and_comm (~~~ _), ← ignoredBits_routingKey, hk, ignoredBits_pattern]
  rw [hk, routingKey_eq_pattern_iff, hand, hvw, ← hand, decode_row h]

/-- Words that agree outside the ignored bits of one that decodes are the same instruction: they encode alike. -/
theorem decode_of_agree {v w : Word} {i : Instr} (hvw : v &&& ~~~ ignoredBits w = w &&& ~~~ ignoredBits w)
    (h : decode w = .ok i) : decode v = .ok i := by
  have hkey := routingKey_of_agree hvw h
  obtain ⟨j, hj, -⟩ := decode_of_routingKey (hkey.trans (routingKey_of_decode h))
  have hencode : encode j = encode i := by
    rw [encode_of_decode hj, encode_of_decode h, ← ignoredBits_routingKey v, ← assembledBits_routingKey v, hkey,
      ignoredBits_routingKey, assembledBits_routingKey, hvw]
  rw [hj, encode_injective hencode]

/-- Settles O5: words that agree encode alike, and each pattern of R79 is a word of its instruction's row. -/
theorem ignoredBitsDoNotMatter : Obligations.IgnoredBitsDoNotMatter := by
  refine ⟨fun v w i => decode_of_agree, fun x y n => ⟨?_, ?_, ?_, ?_, ?_, ?_⟩⟩
  · rw [decode, routingKey_of_pattern .cls (wordXYN_selector ..)]; rfl
  · rw [decode, routingKey_of_pattern .ret (wordXYN_selector ..)]; rfl
  · rw [decode, routingKey_of_pattern (.seReg x y) (wordXYN_family ..)]
    simp [Instr.pattern, fieldX_wordXYN, fieldY_wordXYN]
  · rw [decode, routingKey_of_pattern (.sneReg x y) (wordXYN_family ..)]
    simp [Instr.pattern, fieldX_wordXYN, fieldY_wordXYN]
  · rw [decode, routingKey_of_pattern (.shr x) (wordXYN_selector ..)]
    simp [Instr.pattern, fieldX_wordXYN]
  · rw [decode, routingKey_of_pattern (.shl x) (wordXYN_selector ..)]
    simp [Instr.pattern, fieldX_wordXYN]

/-- Settles O6, by evaluation of the nine words. -/
theorem workedClassificationExamples : Obligations.WorkedClassificationExamples := by
  unfold Obligations.WorkedClassificationExamples
  decide

end Sys2Proof.Laws
end

section
/-! PROOFS. The step (40_step.md): fetch bound, dispatch, the timer tick, and the events it reports. -/

namespace Sys2Proof.Machine

/-! ### The tick (R96, R97) -/

theorem tick_DT_toNat (s : State) : s.tick.DT.toNat = s.DT.toNat - 1 := by rw [tick_eq]; exact toNat_tick s.DT

theorem tick_ST_toNat (s : State) : s.tick.ST.toNat = s.ST.toNat - 1 := by rw [tick_eq]; exact toNat_tick s.ST

theorem tick_events (s : State) : s.tick.events = s.events ++ (if s.ST = 1 then [.tone] else []) := by rw [tick_eq]

/-! ### The frame of the updates a step makes beside its instruction -/

namespace Unchanged

variable {regs : List RegIx} {parts : List Part} {stored : Nat → Prop} {s t u : State}

theorem emit (h : Unchanged regs parts stored s t) (e : Event) (he : .events ∈ parts) :
    Unchanged regs parts stored s (t.emit e) :=
  { h with events := fun hn => absurd he hn }

theorem clearEvents (h : Unchanged regs parts stored s t) (he : .events ∈ parts) :
    Unchanged regs parts stored s t.clearEvents :=
  { h with events := fun hn => absurd he hn }

theorem tick (h : Unchanged regs parts stored s t) (hd : .DT ∈ parts) (hs : .ST ∈ parts) (he : .events ∈ parts) :
    Unchanged regs parts stored s t.tick := by
  rw [tick_eq]
  exact { h with
    DT := fun hn => absurd hd hn
    ST := fun hn => absurd hs hn
    events := fun hn => absurd he hn }

theorem trans (h : Unchanged regs parts stored s t) (h' : Unchanged regs parts stored t u) :
    Unchanged regs parts stored s u where
  reg r hr := (h'.reg r hr).trans (h.reg r hr)
  mem a ha := (h'.mem a ha).trans (h.mem a ha)
  I hn := (h'.I hn).trans (h.I hn)
  pc hn := (h'.pc hn).trans (h.pc hn)
  stack hn := (h'.stack hn).trans (h.stack hn)
  sp hn := (h'.sp hn).trans (h.sp hn)
  DT hn := (h'.DT hn).trans (h.DT hn)
  ST hn := (h'.ST hn).trans (h.ST hn)
  fb hn := (h'.fb hn).trans (h.fb hn)
  redraw hn := (h'.redraw hn).trans (h.redraw hn)
  fault hn := (h'.fault hn).trans (h.fault hn)
  events hn := (h'.events hn).trans (h.events hn)
  draws hn := (h'.draws hn).trans (h.draws hn)
  keys := h'.keys.trans h.keys
  cfg := h'.cfg.trans h.cfg

end Unchanged

/-! ### Fetch and dispatch (R90 to R95) -/

/-- Settles O7: the step of a block that fetches `i`, and what follows dispatch when `exec i` answers `t`. -/
theorem stepRunsTheDecodedInstruction : Obligations.StepRunsTheDecodedInstruction := by
  intro s i hr hpc hd _
  have hstep := step_fetches hr ⟨hpc, hd⟩
  exact ⟨hstep, fun t ht => by rw [hstep, ht, afterDispatch]⟩

/-- The step of a running block that fetches two bytes: their dispatch, then what follows it. -/
theorem step_of_fetch {s : State} {hi lo : Byte} (hr : s.Running) (hf : fetch s = some (hi, lo)) :
    step s = afterDispatch (dispatchBytes hi lo s.clearEvents) := by
  have hf' : fetch s.clearEvents = some (hi, lo) := hf
  simp [step, hr, runStep, hf']

/-- The fetch fault is raised by no instruction. -/
theorem faultOf_ne_fetchAddress (i : Instr) (s : State) (a : Nat) : faultOf i s ≠ some (.fetchAddress a) := by
  cases i with
  | drw => simp [faultOf, checkSprite_eq_some]
  | ldB | stRegs | ldRegs => simp [faultOf, checkRange_eq_some]
  | ret | call | skp | sknp =>
    simp only [faultOf]
    split <;> simp
  | _ => simp [faultOf]

/-- Where the fault of a step comes from: the fetch, or the instruction fetched. -/
theorem step_fault_cause {s t : State} {f : Fault} (h : step s = .next t) (hf : t.fault = some f) :
    (4095 ≤ s.pc.toNat ∧ f = .fetchAddress s.pc.toNat) ∨ ∃ i, Fetches s i ∧ faultOf i s = some f := by
  obtain ⟨hr, ⟨hpc, rfl⟩ | ⟨-, rfl⟩ | ⟨i, hi, -⟩⟩ := step_next_cases h
  · exact .inl ⟨hpc, by simpa using hf.symm⟩
  · simp [hr] at hf
  · refine .inr ⟨i, hi, ?_⟩
    cases hif : faultOf i s with
    | none =>
      rw [step_completes hr hi hif] at h
      cases h
      simp [completed_fault, hr] at hf
    | some g =>
      rw [step_faults hr hi hif] at h
      cases h
      exact hf

/-- Settles O8, by what a failed fetch raises and by where the fault of a step comes from. -/
theorem fetchBound : Obligations.FetchBound := by
  refine fun s hr => ⟨fun hpc => step_fetch_fault hr hpc, fun hpc => ⟨fetch_eq_some hpc, fun t a ht hf => ?_⟩⟩
  obtain ⟨hpc', -⟩ | ⟨i, -, hi⟩ := step_fault_cause ht hf
  · omega
  · exact faultOf_ne_fetchAddress i s a hi

/-- Settles O9, by the one step of a block that fetches an unclassified word. -/
theorem unclassifiedWordIsReported : Obligations.UnclassifiedWordIsReported := by
  intro s hr hu
  have hframe : Unchanged [] [.pc, .DT, .ST, .events] noStore s
      ((s.clearEvents.emit (.unknownOpcode (wordAtPc s))).advance 2).tick :=
    ((((Unchanged.refl _ _ _ s).clearEvents (by simp)).emit _ (by simp)).advance 2 (by simp)).tick
      (by simp) (by simp) (by simp)
  exact ⟨_, step_unclassified hr hu, tick_events _, tick_pc _, tick_DT_toNat _, tick_ST_toNat _,
    (tick_fault _).trans hr, hframe⟩

/-! ### Events (R99) -/

/-- Dispatch emits no tone: that is the tick's. -/
theorem tone_not_mem_of_dispatchBytes {hi lo : Byte} {s u : State} (h : dispatchBytes hi lo s = .next u)
    (hs : .tone ∉ s.events) : .tone ∉ u.events := by
  unfold dispatchBytes at h
  split at h
  · next i _ =>
    obtain ⟨t, ht, -, he, -⟩ | ⟨f, ht⟩ := exec_answers i s
    · cases ht.symm.trans h
      rwa [he]
    · cases ht.symm.trans h
      simpa using hs
  · cases h
    simpa using hs

/-- Settles O12: the tick after a dispatch that raised no fault, which has emitted no tone; no tick after one that
did. -/
theorem timersTickOncePerCompletedStep : Obligations.TimersTickOncePerCompletedStep := by
  intro s u hi lo hr hf hu
  have hstep : step s = .next (if u.fault = none then u.tick else u) := by rw [step_of_fetch hr hf, hu, afterDispatch]
  have htone : .tone ∉ u.events := tone_not_mem_of_dispatchBytes hu (by simp)
  refine ⟨_, hstep, fun hn => ?_, fun hn => if_neg hn⟩
  rw [if_pos hn]
  refine ⟨tick_DT_toNat u, tick_ST_toNat u, ?_, tick_events u,
    (Unchanged.refl _ _ _ u).tick (by simp) (by simp) (by simp)⟩
  simp [tick_events, htone]

/-- An instruction that completes emits no event. -/
theorem completed_events (i : Instr) (s : State) : (completed i s).events = s.events :=
  (completed_unchanged i s).events (by cases i <;> simp [writtenParts])

/-- Settles O13, by the three ways a step ends: the events of each are written out. -/
theorem eventsOfAStep : Obligations.EventsOfAStep := by
  intro s t h
  obtain ⟨hu, f, rfl⟩ | ⟨hu, hn, rfl⟩ | ⟨i, hi, -, hn, rfl⟩ := step_next_outcomes h
  · simp [hu, eq_comm]
  · simp only [tick_events, hn]
    split <;> simp [hu]
  · simp only [tick_events, completed_events, hn]
    split <;> simp [hi.not_unclassified]

end Sys2Proof.Machine
end

section
/-! PROOFS. Runs of the step (40_step.md R100, R102): a block that has faulted, and a block that waits. -/

namespace Sys2Proof.Machine

/-! ### One step of a run -/

theorem run_succ_of_fault {s : State} {f : Fault} (h : step s = .fault f) (n : Nat) :
    Sys2Proof.core.run (n + 1) s = .fault f := by
  have hc : Sys2Proof.core.step s = .fault f := h
  simp only [Host.Core.run, hc]

theorem run_succ_of_next {s t : State} (h : step s = .next t) (n : Nat) :
    Sys2Proof.core.run (n + 1) s = Sys2Proof.core.run n t := by
  have hc : Sys2Proof.core.step s = .next t := h
  simp only [Host.Core.run, hc]

/-! ### A faulted block (R100) -/

/-- A block with a recorded fault reports it again. -/
theorem step_faulted {s : State} {f : Fault} (hf : s.fault = some f) : step s = .fault f := by
  simp [step, hf]

/-- Settles O10, by the first step, which is the last. -/
theorem faultedBlockHasNoStep : Obligations.FaultedBlockHasNoStep :=
  fun _ _ hf => ⟨step_faulted hf, fun t ht => by simp [step_faulted hf] at ht, run_succ_of_fault (step_faulted hf)⟩

/-! ### A waiting block (R102, R112, R193) -/

/-- The block is at a key wait with no key pressed, or at a jump to its own address. -/
def Waits (s : State) : Prop :=
  (∃ x, Fetches s (.ldVxK x) ∧ ∀ k : Fin 16, s.keys[k] = 0) ∨
    ∃ nnn, Fetches s (.jp nnn) ∧ s.pc.toNat = nnn.toNat

/-- What a step fetches depends on pc and memory alone. -/
theorem Fetches.of_unchanged {regs : List RegIx} {parts : List Part} {s t : State} {i : Instr} (h : Fetches s i)
    (hu : Unchanged regs parts noStore s t) (hp : .pc ∉ parts) : Fetches t i := by
  have hw : wordAtPc t = wordAtPc s := by
    rw [wordAtPc, hu.pc hp, hu.mem _ id, hu.mem _ id, wordAtPc]
  exact ⟨hu.pc hp ▸ h.1, hw ▸ h.2⟩

theorem Waits.of_unchanged {s t : State} (h : Waits s) (hu : Unchanged [] [.DT, .ST, .events] noStore s t) :
    Waits t := by
  have hpc : .pc ∉ [Part.DT, .ST, .events] := by simp
  obtain ⟨x, hx, hk⟩ | ⟨nnn, hj, hself⟩ := h
  · exact .inl ⟨x, hx.of_unchanged hu hpc, hu.keys ▸ hk⟩
  · exact .inr ⟨nnn, hj.of_unchanged hu hpc, hu.pc hpc ▸ hself⟩

/-- LD Vx,K leaves the state as it is while no key is pressed (R193). -/
theorem completed_ldVxK_of_no_key {s : State} (hk : ∀ k : Fin 16, s.keys[k] = 0) (x : RegIx) :
    completed (.ldVxK x) s = s := by
  have hnone : lowestPressed s = none := lowestPressed_eq_none.2 fun k => by
    simpa [State.keyPressed] using hk ⟨k.toNat, k.isLt⟩
  rw [completed, hnone]
  rfl

/-- A jump to its own address leaves the state as it is (R112). -/
theorem completed_jp_self {s : State} {nnn : Addr12} (h : s.pc.toNat = nnn.toNat) : completed (.jp nnn) s = s := by
  have hpc : zext16 nnn = s.pc := BitVec.eq_of_toNat_eq (by simp [zext16, h]; omega)
  rw [completed, hpc]
  rfl

/-- A step of a block that waits is a tick. -/
theorem step_of_waits {s : State} (hr : s.Running) (hw : Waits s) : step s = .next s.clearEvents.tick := by
  obtain ⟨x, hx, hk⟩ | ⟨nnn, hj, hself⟩ := hw
  · rw [step_completes hr hx rfl, completed_ldVxK_of_no_key (s := s.clearEvents) hk]
  · rw [step_completes hr hj rfl, completed_jp_self (s := s.clearEvents) hself]

/-- Settles O18, by induction on the number of steps: each is a tick, after which the block waits on. -/
theorem waitingChangesOnlyTheTimers : Obligations.WaitingChangesOnlyTheTimers := by
  intro s hr hw n
  induction n generalizing s with
  | zero => exact ⟨s, rfl, rfl, rfl, .refl _ _ _ s⟩
  | succ n ih =>
    have hu : Unchanged [] [.DT, .ST, .events] noStore s s.clearEvents.tick :=
      ((Unchanged.refl _ _ _ s).clearEvents (by simp)).tick (by simp) (by simp) (by simp)
    obtain ⟨t, hrun, hdt, hst, hut⟩ := ih s.clearEvents.tick ((tick_fault _).trans hr) (Waits.of_unchanged hw hu)
    rw [tick_DT_toNat, Nat.sub_sub, Nat.add_comm] at hdt
    rw [tick_ST_toNat, Nat.sub_sub, Nat.add_comm] at hst
    exact ⟨t, (run_succ_of_next (step_of_waits hr hw) n).trans hrun, hdt, hst, hu.trans hut⟩

end Sys2Proof.Machine
end

section
/-! PROOFS. The rows of the opcode map (30_encoding.md R73, R75): every word of a row decodes to that row's instruction. -/

namespace Sys2Proof.Laws

/-- The instruction of the row of `i` whose operands are the fields of `w`. -/
def rowInstr (i : Instr) (w : Word) : Instr :=
  match i with
  | .cls => .cls
  | .ret => .ret
  | .jp _ => .jp (fieldNNN w)
  | .call _ => .call (fieldNNN w)
  | .seImm _ _ => .seImm (fieldX w) (fieldNN w)
  | .sneImm _ _ => .sneImm (fieldX w) (fieldNN w)
  | .seReg _ _ => .seReg (fieldX w) (fieldY w)
  | .ldImm _ _ => .ldImm (fieldX w) (fieldNN w)
  | .addImm _ _ => .addImm (fieldX w) (fieldNN w)
  | .ldReg _ _ => .ldReg (fieldX w) (fieldY w)
  | .orReg _ _ => .orReg (fieldX w) (fieldY w)
  | .andReg _ _ => .andReg (fieldX w) (fieldY w)
  | .xorReg _ _ => .xorReg (fieldX w) (fieldY w)
  | .addReg _ _ => .addReg (fieldX w) (fieldY w)
  | .subReg _ _ => .subReg (fieldX w) (fieldY w)
  | .shr _ => .shr (fieldX w)
  | .subnReg _ _ => .subnReg (fieldX w) (fieldY w)
  | .shl _ => .shl (fieldX w)
  | .sneReg _ _ => .sneReg (fieldX w) (fieldY w)
  | .ldI _ => .ldI (fieldNNN w)
  | .jpV0 _ => .jpV0 (fieldNNN w)
  | .rnd _ _ => .rnd (fieldX w) (fieldNN w)
  | .drw _ _ _ => .drw (fieldX w) (fieldY w) (fieldN w)
  | .skp _ => .skp (fieldX w)
  | .sknp _ => .sknp (fieldX w)
  | .ldVxDT _ => .ldVxDT (fieldX w)
  | .ldVxK _ => .ldVxK (fieldX w)
  | .ldDTVx _ => .ldDTVx (fieldX w)
  | .ldSTVx _ => .ldSTVx (fieldX w)
  | .addI _ => .addI (fieldX w)
  | .ldF _ => .ldF (fieldX w)
  | .ldB _ => .ldB (fieldX w)
  | .stRegs _ => .stRegs (fieldX w)
  | .ldRegs _ => .ldRegs (fieldX w)

/-- A word that matches the row of `i` has its routing key, and decoding looks at nothing else to choose the row. -/
theorem decodesAs_row (i : Instr) : Machine.DecodesAs i.mask i.pattern (rowInstr i) := by
  intro w hw
  rw [decode, routingKey_of_pattern i hw]
  cases i <;> rfl

end Sys2Proof.Laws
end

section
/-! PROOFS. Control transfer (41_control_flow.md): calls and returns, jumps, skips. -/

namespace Sys2Proof.Machine

/-- The fault an instruction raises is taken as R212 has it. -/
theorem takesFault_of_faultOf {i : Instr} {s : State} {f : Fault} (h : faultOf i s = some f) : TakesFault i s f :=
  exec_of_faultOf_some h

theorem toNat_zext16 (nnn : Addr12) : (zext16 nnn).toNat = nnn.toNat :=
  BitVec.toNat_setWidth_of_le (by decide)

/-! ### The stack (10_state.md R30, R31) -/

theorem setPc_top (s : State) (v : Word) : (s.setPc v).top = s.top := rfl

theorem setPc_pop (s : State) (v : Word) : (s.setPc v).pop = s.pop.setPc v := rfl

theorem top_eq {s : State} {j : Fin 16} (h : s.sp.val = j.val + 1) : s.top = s.stack[j] := by
  simp [State.top, h]

theorem top_push (s : State) (v : Word) (h : s.sp.val < 16) : (s.push v h).top = v := by
  simp [State.top]

theorem push_stack_get (s : State) (v : Word) (h : s.sp.val < 16) (j : Fin 16) :
    (s.push v h).stack[j] = if j.val = s.sp.val then v else s.stack[j] := by
  simp [Vector.getElem_set, eq_comm]

/-- A push and then a pop restore the stack pointer; the entry pushed stays where it is (R31). -/
theorem pop_push (s : State) (v : Word) (h : s.sp.val < 16) :
    (s.push v h).pop = { s with stack := (s.push v h).stack } := rfl

theorem Unchanged.setStack {regs : List RegIx} {parts : List Part} {stored : Nat → Prop} {s t : State}
    (h : Unchanged regs parts stored s t) (v : Vector Word 16) (hk : .stack ∈ parts) :
    Unchanged regs parts stored s { t with stack := v } :=
  { h with stack := fun hn => absurd hk hn }

/-! ### Calls and returns (R111, R113) -/

theorem exec_ret {s : State} (h : s.sp.val ≠ 0) : exec .ret s = .next (s.pop.setPc (s.top + 2)) :=
  exec_of_faultOf_none (if_neg h)

theorem exec_call (nnn : Addr12) {s : State} (h : s.sp.val < 16) :
    exec (.call nnn) s = .next ((s.push s.pc h).setPc (zext16 nnn)) :=
  (exec_of_faultOf_none (i := .call nnn) (if_pos h)).trans (congrArg _ (completed_call nnn h))

/-- Settles O36, by what a RET leaves and by where the entry it pops stands. -/
theorem returnPopsTheStack : Obligations.ReturnPopsTheStack := by
  refine ⟨Laws.decodesAs_row .ret, fun s => ⟨fun j hj => ?_, fun h => takesFault_of_faultOf (if_pos h)⟩⟩
  exact ⟨_, exec_ret (by omega), by simp [hj], by simp [top_eq hj], completed_unchanged .ret s, fetch_eq_none.2⟩

/-- Settles O37, by what a CALL leaves, entry by entry of the stack. -/
theorem callPushesItsAddress : Obligations.CallPushesItsAddress := by
  refine ⟨Laws.decodesAs_row (.call 0), fun nnn s => ⟨fun h => ?_, fun h => takesFault_of_faultOf (if_neg (by omega))⟩⟩
  have hu : Unchanged [] [.stack, .sp, .pc] noStore s ((s.push s.pc h).setPc (zext16 nnn)) :=
    ((Unchanged.refl _ _ _ s).push _ h (by simp) (by simp)).setPc _ (by simp)
  exact ⟨_, exec_call nnn h, rfl, toNat_zext16 nnn, push_stack_get s s.pc h, hu⟩

/-- A RET after a CALL leaves the state before the CALL, but for pc and the entry pushed. -/
theorem exec_ret_after_call (nnn : Addr12) {s t : State} (h : s.sp.val < 16) (ht : exec (.call nnn) s = .next t) :
    exec .ret t = .next ({ s with stack := (s.push s.pc h).stack }.setPc (s.pc + 2)) := by
  rw [exec_call nnn h] at ht
  cases ht
  rw [exec_ret (Nat.succ_ne_zero s.sp.val), setPc_top, top_push, setPc_pop, pop_push]
  rfl

/-- Settles O41, by the state a RET after a CALL leaves: the entry that stays behind lies above those in use. -/
theorem returnAfterCallComesBack : Obligations.ReturnAfterCallComesBack := by
  intro s t nnn h ht
  have hu : Unchanged [] [.stack, .pc] noStore s ({ s with stack := (s.push s.pc h).stack }.setPc (s.pc + 2)) :=
    ((Unchanged.refl _ _ _ s).setStack _ (by simp)).setPc _ (by simp)
  exact ⟨_, exec_ret_after_call nnn h ht, rfl, rfl, hu, fun j hj => (push_stack_get s s.pc h j).trans (if_neg hj.ne)⟩

/-! ### Jumps (R112, R118) -/

/-- The target of JP V0, NNN does not wrap. -/
theorem toNat_zext16_add (nnn : Addr12) (v : Byte) :
    (zext16 nnn + v.setWidth 16).toNat = nnn.toNat + v.toNat := by
  rw [BitVec.toNat_add, toNat_zext16, BitVec.toNat_setWidth_of_le (by decide)]
  omega

/-- Settles O38, by the target of each jump as a number; the fetch bound is that of R91. -/
theorem jumpsSetTheProgramCounter : Obligations.JumpsSetTheProgramCounter := by
  refine ⟨Laws.decodesAs_row (.jp 0), Laws.decodesAs_row (.jpV0 0), fun nnn s => ⟨?_, ?_⟩⟩
  · exact ⟨_, exec_of_faultOf_none rfl, toNat_zext16 nnn, completed_unchanged (.jp nnn) s, fetch_eq_none.2⟩
  · exact ⟨_, exec_of_faultOf_none rfl, toNat_zext16_add nnn (s.reg 0), completed_unchanged (.jpV0 nnn) s,
      fetch_eq_none.2⟩

/-! ### Skips (R110, R114 to R117) -/

theorem skip_eq_pc (s : State) (a b : Byte) : (s.skip (a = b)).pc = s.pc + (if a.toNat = b.toNat then 4 else 2) := by
  simp [BitVec.toNat_inj]

theorem skip_ne_pc (s : State) (a b : Byte) : (s.skip (a ≠ b)).pc = s.pc + (if a.toNat = b.toNat then 2 else 4) := by
  simp [BitVec.toNat_inj]

/-- Settles O39: both are a skip, on the register being equal to the immediate and on its being different. -/
theorem skipsOnImmediate : Obligations.SkipsOnImmediate := by
  refine ⟨Laws.decodesAs_row (.seImm 0 0), Laws.decodesAs_row (.sneImm 0 0), fun x nn s => ⟨?_, ?_⟩⟩
  · exact ⟨_, exec_of_faultOf_none rfl, skip_eq_pc s (s.reg x) nn, completed_unchanged (.seImm x nn) s⟩
  · exact ⟨_, exec_of_faultOf_none rfl, skip_ne_pc s (s.reg x) nn, completed_unchanged (.sneImm x nn) s⟩

/-- Settles O40: both are a skip, on the registers being equal and on their being different. -/
theorem skipsOnRegisters : Obligations.SkipsOnRegisters := by
  refine ⟨Laws.decodesAs_row (.seReg 0 0), Laws.decodesAs_row (.sneReg 0 0), fun x y s => ⟨?_, ?_⟩⟩
  · exact ⟨_, exec_of_faultOf_none rfl, skip_eq_pc s (s.reg x) (s.reg y), completed_unchanged (.seReg x y) s⟩
  · exact ⟨_, exec_of_faultOf_none rfl, skip_ne_pc s (s.reg x) (s.reg y), completed_unchanged (.sneReg x y) s⟩

end Sys2Proof.Machine
end

section
/-! PROOFS. Registers and the ALU (42_alu.md): results modulo 256, flags of the operands before the operation, the random byte. -/

namespace Sys2Proof.Machine

/-! ### Flags as numbers (R130) -/

theorem toNat_flagByte (b : Bool) : (flagByte b).toNat = b.toNat := by
  cases b <;> rfl

theorem toNat_flagByte_decide (p : Prop) [Decidable p] : (flagByte (decide p)).toNat = if p then 1 else 0 := by
  by_cases h : p <;> simp [toNat_flagByte, h]

theorem toNat_flagByte_carryOut (a b : Byte) :
    (flagByte (carryOut a b)).toNat = if 255 < a.toNat + b.toNat then 1 else 0 :=
  toNat_flagByte_decide _

theorem toNat_flagByte_noBorrow (a b : Byte) :
    (flagByte (noBorrow a b)).toNat = if b.toNat ≤ a.toNat then 1 else 0 :=
  toNat_flagByte_decide _

/-- A bit of a byte, as a flag, is that binary digit of the byte's value. -/
theorem toNat_flagByte_getLsbD (a : Byte) (k : Nat) : (flagByte (a.getLsbD k)).toNat = a.toNat / 2 ^ k % 2 := by
  rw [toNat_flagByte, BitVec.getLsbD, Nat.toNat_testBit]

theorem toNat_flagByte_lowBit (a : Byte) : (flagByte (lowBit a)).toNat = a.toNat % 2 := by
  rw [lowBit, toNat_flagByte_getLsbD, Nat.pow_zero, Nat.div_one]

theorem toNat_flagByte_highBit (a : Byte) : (flagByte (highBit a)).toNat = a.toNat / 128 := by
  rw [highBit, toNat_flagByte_getLsbD]
  omega

/-! ### Results as numbers -/

/-- The wrapped difference with the subtrahend last, as R138 and R140 write it. -/
theorem toNat_sub_byte (a b : Byte) : (a - b).toNat = (a.toNat + 256 - b.toNat) % 256 := by
  rw [BitVec.toNat_sub]
  omega

theorem toNat_ushiftRight_one (a : Byte) : (a >>> 1).toNat = a.toNat / 2 := by
  rw [BitVec.toNat_ushiftRight, Nat.shiftRight_one]

theorem toNat_shiftLeft_one (a : Byte) : (a <<< 1).toNat = a.toNat * 2 % 256 := by
  rw [BitVec.toNat_shiftLeft, Nat.shiftLeft_eq]

/-! ### One register and pc (R131 to R136) -/

theorem reg_setReg_advance (s : State) (x : RegIx) (v : Byte) (n : Word) : ((s.setReg x v).advance n).reg x = v := by
  rw [advance_reg, reg_setReg_same]

/-- Settles O42, by the value each leaves in x[X] and the frame of the instruction. -/
theorem loadAndAddImmediate : Obligations.LoadAndAddImmediate := by
  refine ⟨Laws.decodesAs_row (.ldImm 0 0), Laws.decodesAs_row (.addImm 0 0), fun x nn s => ⟨?_, ?_⟩⟩
  · exact ⟨_, exec_of_faultOf_none rfl, reg_setReg_advance s x nn 2, rfl, completed_unchanged (.ldImm x nn) s⟩
  · refine ⟨_, exec_of_faultOf_none rfl, ?_, rfl, completed_unchanged (.addImm x nn) s⟩
    rw [completed, reg_setReg_advance, BitVec.toNat_add]

/-- Settles O43, by the value each leaves in x[X], bit by bit, and the frame of the instruction. -/
theorem copyAndBitwise : Obligations.CopyAndBitwise := by
  refine ⟨Laws.decodesAs_row (.ldReg 0 0), Laws.decodesAs_row (.orReg 0 0), Laws.decodesAs_row (.andReg 0 0),
    Laws.decodesAs_row (.xorReg 0 0), fun x y s => ⟨?_, ?_, ?_, ?_⟩⟩
  · exact ⟨_, exec_of_faultOf_none rfl, reg_setReg_advance s x (s.reg y) 2, rfl, completed_unchanged (.ldReg x y) s⟩
  · refine ⟨_, exec_of_faultOf_none rfl, fun b => ?_, rfl, completed_unchanged (.orReg x y) s⟩
    rw [completed, reg_setReg_advance]
    exact BitVec.getElem_or b.isLt
  · refine ⟨_, exec_of_faultOf_none rfl, fun b => ?_, rfl, completed_unchanged (.andReg x y) s⟩
    rw [completed, reg_setReg_advance]
    exact BitVec.getElem_and b.isLt
  · refine ⟨_, exec_of_faultOf_none rfl, fun b => ?_, rfl, completed_unchanged (.xorReg x y) s⟩
    rw [completed, reg_setReg_advance]
    exact BitVec.getElem_xor b.isLt

/-! ### Flag, then result, then pc (R137 to R141) -/

/-- What the five flag-setting instructions share: the result is in x[X], the flag is in x[15] unless X = 15, pc is
past the instruction, and the rest is unchanged. -/
theorem flag_then_result {s t : State} {flag : Bool} {x : RegIx} {v : Byte} {n m : Nat}
    (ht : t = (s.setFlagThenReg flag x v).advance 2) (hv : v.toNat = n) (hf : (flagByte flag).toNat = m) :
    (t.reg x).toNat = n ∧ (x ≠ VF → (t.reg VF).toNat = m) ∧ t.pc = s.pc + 2 ∧ Unchanged [x, VF] [.pc] noStore s t := by
  subst ht
  refine ⟨?_, fun hx => ?_, rfl, ?_⟩
  · rw [advance_reg, reg_setFlagThenReg, if_pos rfl, hv]
  · rw [advance_reg, reg_setFlagThenReg, if_neg hx.symm, if_pos rfl, hf]
  · exact ((Unchanged.refl _ _ _ s).setFlagThenReg flag v (by simp) (by simp)).advance 2 (by simp)

/-- Settles O44, by the wrapped sum and the carry, both of the operands before the add. -/
theorem addRegistersSetsCarry : Obligations.AddRegistersSetsCarry :=
  ⟨Laws.decodesAs_row (.addReg 0 0), fun x y s => ⟨_, exec_of_faultOf_none rfl,
    flag_then_result rfl (BitVec.toNat_add (s.reg x) (s.reg y)) (toNat_flagByte_carryOut (s.reg x) (s.reg y))⟩⟩

/-- Settles O45: SUB and SUBN leave the wrapped difference and the not-borrow, with the operands in either order. -/
theorem subtractsSetNotBorrow : Obligations.SubtractsSetNotBorrow := by
  refine ⟨Laws.decodesAs_row (.subReg 0 0), Laws.decodesAs_row (.subnReg 0 0), fun x y s => ⟨?_, ?_⟩⟩
  · exact ⟨_, exec_of_faultOf_none rfl,
      flag_then_result rfl (toNat_sub_byte (s.reg x) (s.reg y)) (toNat_flagByte_noBorrow (s.reg x) (s.reg y))⟩
  · exact ⟨_, exec_of_faultOf_none rfl,
      flag_then_result rfl (toNat_sub_byte (s.reg y) (s.reg x)) (toNat_flagByte_noBorrow (s.reg y) (s.reg x))⟩

/-- Settles O46: a shift halves or doubles x[X], and the bit moved out is a binary digit of the value before. -/
theorem shiftsSetTheBitMovedOut : Obligations.ShiftsSetTheBitMovedOut := by
  refine ⟨Laws.decodesAs_row (.shr 0), Laws.decodesAs_row (.shl 0), fun x s => ⟨?_, ?_⟩⟩
  · exact ⟨_, exec_of_faultOf_none rfl,
      flag_then_result rfl (toNat_ushiftRight_one (s.reg x)) (toNat_flagByte_lowBit (s.reg x))⟩
  · exact ⟨_, exec_of_faultOf_none rfl,
      flag_then_result rfl (toNat_shiftLeft_one (s.reg x)) (toNat_flagByte_highBit (s.reg x))⟩

/-! ### The random byte (R142) -/

theorem rndWith_reg_same (b : Byte) (x : RegIx) (nn : Byte) (s : State) : (rndWith b x nn s).reg x = b &&& nn :=
  reg_setReg_advance s x (b &&& nn) 2

theorem Unchanged.rndWith {regs : List RegIx} {parts : List Part} {stored : Nat → Prop} {s t : State}
    (h : Unchanged regs parts stored s t) (b : Byte) {x : RegIx} (nn : Byte) (hx : x ∈ regs) (hp : .pc ∈ parts) :
    Unchanged regs parts stored s (rndWith b x nn t) :=
  (h.setReg _ hx).advance _ hp

/-- Settles O47: RND is `rndWith` for the byte drawn, and what `rndWith` leaves does not depend on which byte that is. -/
theorem randomIsMasked : Obligations.RandomIsMasked := by
  refine ⟨Laws.decodesAs_row (.rnd 0 0), fun x nn s => ⟨?_, fun b => ?_⟩⟩
  · exact ⟨_, exec_of_faultOf_none rfl, rndWith_reg_same (Config.rand8 s.draws) x nn s, rfl, rfl,
      completed_unchanged (.rnd x nn) s⟩
  · exact ⟨rndWith_reg_same b x nn s, (Unchanged.refl _ _ _ s).rndWith b nn (by simp) (by simp)⟩

end Sys2Proof.Machine
end

section
/-! PROOFS. The index register and memory (43_index_memory.md): index values as numbers, decimal digits, block transfers and their faults. -/

namespace Sys2Proof.Machine

/-! ### The index register (R161 to R163) -/

theorem toNat_add_setWidth (v : Word) (b : Byte) : (v + b.setWidth 16).toNat = (v.toNat + b.toNat) % 65536 := by
  rw [BitVec.toNat_add, BitVec.toNat_setWidth_of_le (by decide)]

/-- The glyph of the largest value lies at 1275, so the product does not wrap. -/
theorem toNat_glyphAddr (v : Byte) : (glyphAddr v).toNat = v.toNat * 5 := by
  rw [glyphAddr, BitVec.toNat_ofNat]
  omega

/-- Settles O48, by the value each puts into I as a number and the frame of the instruction. -/
theorem indexRegisterInstructions : Obligations.IndexRegisterInstructions := by
  refine ⟨Laws.decodesAs_row (.ldI 0), Laws.decodesAs_row (.addI 0), Laws.decodesAs_row (.ldF 0),
    fun nnn x s => ⟨?_, ?_, ?_⟩⟩
  · exact ⟨_, exec_of_faultOf_none rfl, toNat_zext16 nnn, rfl, completed_unchanged (.ldI nnn) s⟩
  · exact ⟨_, exec_of_faultOf_none rfl, toNat_add_setWidth s.I (s.reg x), rfl, completed_unchanged (.addI x) s⟩
  · exact ⟨_, exec_of_faultOf_none rfl, toNat_glyphAddr (s.reg x), rfl, completed_unchanged (.ldF x) s⟩

/-! ### The check of a data range (20_memory.md R58, R59) -/

theorem checkRange_eq_dataAddress {s : State} {lo hi : Nat} (kind : AccessKind) (h : 4095 < hi) :
    checkRange s lo hi kind = some (.dataAddress (max lo 4096)) :=
  checkRange_eq_some.2 (.inl ⟨h, rfl⟩)

theorem checkRange_write_eq_fontWrite {s : State} {lo hi : Nat} (hhi : hi ≤ 4095) (hlo : lo < 80)
    (hw : s.cfg.fontWrite = .fault) : checkRange s lo hi .write = some (.fontWrite lo) :=
  checkRange_eq_some.2 (.inr ⟨hhi, ⟨rfl, hlo, hw⟩, rfl⟩)

theorem checkRange_write_eq_none {s : State} {lo hi : Nat} (hhi : hi ≤ 4095)
    (hfont : 80 ≤ lo ∨ s.cfg.fontWrite = .allow) : checkRange s lo hi .write = none := by
  refine checkRange_eq_none.2 ⟨hhi, fun ⟨_, hlo, hw⟩ => ?_⟩
  obtain hge | hallow := hfont
  · omega
  · cases hallow.symm.trans hw

theorem checkRange_read_eq_none {s : State} {lo hi : Nat} (hhi : hi ≤ 4095) : checkRange s lo hi .read = none :=
  checkRange_eq_none.2 ⟨hhi, fun ⟨hk, _⟩ => nomatch hk⟩

/-! ### Decimal digits (R164) -/

theorem toNat_hundreds (v : Byte) : (hundreds v).toNat = v.toNat / 100 := by
  rw [hundreds, BitVec.toNat_ofNat]
  omega

theorem toNat_tens (v : Byte) : (tens v).toNat = v.toNat / 10 % 10 := by
  rw [tens, BitVec.toNat_ofNat]
  omega

theorem toNat_ones (v : Byte) : (ones v).toNat = v.toNat % 10 := by
  rw [ones, BitVec.toNat_ofNat]
  omega

theorem effectiveAddr_inj {s : State} {j k : Nat} : effectiveAddr s j = effectiveAddr s k ↔ j = k :=
  Nat.add_left_cancel_iff

/-- A read after the three digit stores, which are at different addresses. -/
theorem loadByte_storeBcd (s : State) (v : Byte) (k : Nat) :
    (s.storeBcd v).loadByte (effectiveAddr s k) =
      if k = 2 then ones v else if k = 1 then tens v else if k = 0 then hundreds v
      else s.loadByte (effectiveAddr s k) := by
  simp only [State.storeBcd, loadByte_storeByte, effectiveAddr_inj]

/-- Settles O49: past the check the three stores do not meet, and each fault is one of the check. -/
theorem storeBcd : Obligations.StoreBcd := by
  refine ⟨Laws.decodesAs_row (.ldB 0), fun x s => ⟨fun hhi hfont => ?_, fun h => ?_, fun hlo hw => ?_⟩⟩
  · have hdigit := loadByte_storeBcd s (s.reg x)
    refine ⟨_, exec_of_faultOf_none (checkRange_write_eq_none hhi hfont), ?_, ?_, ?_, rfl,
      completed_unchanged (.ldB x) s⟩
    · exact (congrArg _ (hdigit 0)).trans (toNat_hundreds (s.reg x))
    · exact (congrArg _ (hdigit 1)).trans (toNat_tens (s.reg x))
    · exact (congrArg _ (hdigit 2)).trans (toNat_ones (s.reg x))
  · exact takesFault_of_faultOf (checkRange_eq_dataAddress .write h)
  · exact takesFault_of_faultOf (checkRange_write_eq_fontWrite (by simp only [effectiveAddr]; omega) hlo hw)

/-! ### Block transfers (R165, R166) -/

/-- Behind a range that lies in memory, I does not wrap. -/
theorem toNat_bumpI (s : State) {x : RegIx} (h : s.I.toNat + x.toNat ≤ 4095) :
    (s.bumpI x).I.toNat = s.I.toNat + x.toNat + 1 := by
  simp only [State.bumpI, setI_I]
  bv_omega

theorem completed_stRegs_I (x : RegIx) (s : State) : (completed (.stRegs x) s).I = (s.bumpI x).I := by
  simp only [completed, State.bumpI, advance_I, setI_I, storeRegs_I]

theorem completed_ldRegs_I (x : RegIx) (s : State) : (completed (.ldRegs x) s).I = (s.bumpI x).I := by
  simp only [completed, State.bumpI, advance_I, setI_I, loadRegs_I]

/-- A dump puts register k, up to x[X], at I + k. -/
theorem loadByte_completed_stRegs_reg {x k : RegIx} (s : State) (hk : k ≤ x) :
    (completed (.stRegs x) s).loadByte (effectiveAddr s k.toNat) = s.reg k := by
  rw [BitVec.le_def] at hk
  rw [effectiveAddr, loadByte_completed_stRegs (by omega) (by omega), Nat.add_sub_cancel_left, BitVec.ofNat_toNat,
    BitVec.setWidth_eq]

/-- A load puts the byte at I + k into register k, up to x[X]. -/
theorem reg_completed_ldRegs {x k : RegIx} (s : State) (hk : k ≤ x) :
    (completed (.ldRegs x) s).reg k = s.loadByte (effectiveAddr s k.toNat) :=
  (reg_loadRegs s (effectiveAddr s 0) (x.toNat + 1) x.isLt k).trans (if_pos (Nat.lt_succ_of_le hk))

/-- Settles O50, by the bytes a dump leaves and the index behind them; each fault is one of the check. -/
theorem storeRegisters : Obligations.StoreRegisters := by
  refine ⟨Laws.decodesAs_row (.stRegs 0), fun x s => ⟨fun hhi hfont => ?_, fun h => ?_, fun hlo hw => ?_⟩⟩
  · have hf : faultOf (.stRegs x) s = none := checkRange_write_eq_none hhi hfont
    exact ⟨_, exec_of_faultOf_none hf, fun k hk => loadByte_completed_stRegs_reg s hk,
      completed_stRegs_I x s ▸ toNat_bumpI s hhi, completed_pc hf, completed_unchanged (.stRegs x) s⟩
  · exact takesFault_of_faultOf (checkRange_eq_dataAddress .write h)
  · exact takesFault_of_faultOf (checkRange_write_eq_fontWrite (by simp only [effectiveAddr]; omega) hlo hw)

/-- Settles O51, by the registers a load leaves and the index behind the bytes; a read has only the bound to meet. -/
theorem loadRegisters : Obligations.LoadRegisters := by
  refine ⟨Laws.decodesAs_row (.ldRegs 0), fun x s => ⟨fun hhi => ?_, fun h => ?_⟩⟩
  · have hf : faultOf (.ldRegs x) s = none := checkRange_read_eq_none hhi
    exact ⟨_, exec_of_faultOf_none hf, fun k hk => reg_completed_ldRegs s hk,
      completed_ldRegs_I x s ▸ toNat_bumpI s hhi, completed_pc hf, completed_unchanged (.ldRegs x) s⟩
  · exact takesFault_of_faultOf (checkRange_eq_dataAddress .read h)

/-- Settles O52: the range that passed the write check passes the read check, and the load finds at I + k the byte
the dump put there. -/
theorem dumpThenLoadRoundTrips : Obligations.DumpThenLoadRoundTrips := by
  intro s t u x _ ht hrun hmem hcfg hI
  obtain ⟨hst, rfl⟩ | ⟨f, -, rfl⟩ := exec_next_cases ht
  · have hld : faultOf (.ldRegs x) u = none := checkRange_read_eq_none (by
      rw [effectiveAddr, hI]
      exact (checkRange_eq_none.1 hst).1)
    refine ⟨_, exec_of_faultOf_none hld, fun k hk => ?_, ?_⟩
    · have hload : u.loadByte (effectiveAddr u k.toNat) =
          (completed (.stRegs x) s).loadByte (effectiveAddr s k.toNat) := by
        simp only [State.loadByte, effectiveAddr, hmem, hcfg, hI]
      rw [reg_completed_ldRegs u hk, hload, loadByte_completed_stRegs_reg s hk]
    · rw [completed_ldRegs_I, completed_stRegs_I, State.bumpI, State.bumpI, hI, setI_I, setI_I]
  · cases hrun

end Sys2Proof.Machine
end

section
/-! PROOFS. The display (44_display.md): the clear screen, the pixels a sprite covers, one draw, and two equal draws. -/

namespace Sys2Proof.Machine

/-! ### Clear screen (R180) -/

theorem cell_zero (k : Nat) : cell 0 k = false := BitVec.getLsbD_zero

/-- Settles O53, by the cells of the empty frame buffer and the frame of the instruction. -/
theorem clearScreen : Obligations.ClearScreen :=
  ⟨Laws.decodesAs_row .cls, fun s =>
    ⟨_, exec_of_faultOf_none rfl, cell_zero, rfl, rfl, completed_unchanged .cls s⟩⟩

/-! ### Cells and pixels (10_state.md R34) -/

/-- A frame buffer is what its cells read. -/
theorem frameBuffer_ext {f g : FrameBuffer} (h : ∀ k, cell f k = cell g k) : f = g :=
  BitVec.eq_of_getLsbD_eq fun k _ => h k

/-- The pixels run through the 2048 cells of the buffer. -/
theorem exists_pixel_iff {P : Nat → Prop} (hP : ∀ k, P k → k < 2048) :
    (∃ px py, px < 64 ∧ py < 32 ∧ P (py * 64 + px)) ↔ ∃ k, P k := by
  constructor
  · rintro ⟨px, py, -, -, h⟩
    exact ⟨_, h⟩
  · rintro ⟨k, h⟩
    have hlt := hP k h
    exact ⟨k % 64, k / 64, by omega, by omega, by rwa [Nat.div_add_mod' k 64]⟩

/-! ### The bits of a sprite -/

theorem spriteBit_eq_true_iff {rows : List Byte} {cx cy px py : Nat} :
    spriteBit rows cx cy px py = true ↔ ∃ row, rows[(py + 32 - cy % 32) % 32]? = some row ∧
      (px + 64 - cx % 64) % 64 < 8 ∧ row.getLsbD (7 - (px + 64 - cx % 64) % 64) = true := by
  simp only [spriteBit]
  cases rows[(py + 32 - cy % 32) % 32]? <;> simp

/-- The cells a draw toggles are the pixels on which a bit of the wrapped sprite falls: with at most 32 rows, the
wrapped distances from the origin give back the row and the column. -/
theorem mem_spriteCells_iff_spriteBit {rows : List Byte} (hl : rows.length ≤ 32) (cx cy : Nat) {px py : Nat}
    (hx : px < 64) (hy : py < 32) :
    py * 64 + px ∈ spriteCells cx cy 0 rows ↔ spriteBit rows cx cy px py = true := by
  rw [mem_spriteCells, spriteBit_eq_true_iff]
  constructor
  · rintro ⟨r, c, row, hr, hc, hb, hk⟩
    have hrl := (List.getElem?_eq_some_iff.1 hr).1
    have hcol : (px + 64 - cx % 64) % 64 = c := by omega
    have hrow : (py + 32 - cy % 32) % 32 = r := by omega
    rw [hcol, hrow]
    exact ⟨row, hr, hc, hb⟩
  · rintro ⟨row, hr, hc, hb⟩
    exact ⟨_, _, row, hr, hc, hb, by omega⟩

theorem byte_ne_zero_iff {row : Byte} : row ≠ 0 ↔ ∃ c, c < 8 ∧ row.getLsbD (7 - c) = true := by
  constructor
  · intro h
    by_contra hno
    refine h (BitVec.eq_of_getLsbD_eq fun k hk => ?_)
    have hbit : ¬ row.getLsbD (7 - (7 - k)) = true := fun hb => hno ⟨7 - k, by omega, hb⟩
    rw [Nat.sub_sub_self (by omega)] at hbit
    simpa using hbit
  · rintro ⟨c, -, hb⟩ rfl
    simp at hb

/-- A sprite toggles some cell exactly when some byte of it is not 0. -/
theorem exists_mem_spriteCells_iff {cx cy r0 : Nat} {rows : List Byte} :
    (∃ k, k ∈ spriteCells cx cy r0 rows) ↔ ∃ row ∈ rows, row ≠ 0 := by
  simp only [mem_spriteCells, byte_ne_zero_iff]
  constructor
  · rintro ⟨-, r, c, row, hr, hc, hb, -⟩
    exact ⟨row, List.mem_of_getElem? hr, c, hc, hb⟩
  · rintro ⟨row, hmem, c, hc, hb⟩
    obtain ⟨r, hr⟩ := List.mem_iff_getElem?.1 hmem
    exact ⟨_, r, c, row, hr, hc, hb, rfl⟩

/-! ### One draw into a frame buffer (R181) -/

section Blit

variable {rows : List Byte} (hl : rows.length ≤ 32) (f : FrameBuffer) (cx cy : Nat)
include hl

theorem cell_blit (k : Nat) :
    cell (blit f cx cy rows).1 k = (cell f k != decide (k ∈ spriteCells cx cy 0 rows)) :=
  (foldl_plot _ (spriteCells_nodup cx cy 0 rows hl) (fun _ => spriteCells_lt) f false).1 k

theorem blit_hit_iff :
    (blit f cx cy rows).2 = true ↔ ∃ k, cell f k = true ∧ k ∈ spriteCells cx cy 0 rows := by
  have h := (foldl_plot _ (spriteCells_nodup cx cy 0 rows hl) (fun _ => spriteCells_lt) f false).2
  rw [blit, h, Bool.false_or, List.any_eq_true]
  exact exists_congr fun _ => and_comm

theorem cell_blit_pixel {px py : Nat} (hx : px < 64) (hy : py < 32) :
    cell (blit f cx cy rows).1 (py * 64 + px) = (cell f (py * 64 + px) != spriteBit rows cx cy px py) := by
  simp only [cell_blit hl, mem_spriteCells_iff_spriteBit hl cx cy hx hy, Bool.decide_eq_true]

/-- Some cell a sprite toggles reads `b` exactly when a set bit falls on a pixel that reads `b`. -/
theorem exists_mem_spriteCells_cell_iff (b : Bool) :
    (∃ k, cell f k = b ∧ k ∈ spriteCells cx cy 0 rows) ↔
      ∃ px py, px < 64 ∧ py < 32 ∧ cell f (py * 64 + px) = b ∧ spriteBit rows cx cy px py = true := by
  rw [← exists_pixel_iff fun k hk => spriteCells_lt hk.2]
  exact exists_congr fun px => exists_congr fun py => and_congr_right fun hx => and_congr_right fun hy =>
    and_congr_right fun _ => mem_spriteCells_iff_spriteBit hl cx cy hx hy

/-! ### Two equal draws into a frame buffer -/

/-- What is toggled twice is as before. -/
theorem blit_blit : (blit (blit f cx cy rows).1 cx cy rows).1 = f :=
  frameBuffer_ext fun k => by rw [cell_blit hl, cell_blit hl, Bool.bne_self_right]

/-- The second draw meets a set pixel where the first met a clear one. -/
theorem blit_blit_hit_iff :
    (blit (blit f cx cy rows).1 cx cy rows).2 = true ↔
      ∃ k, cell f k = false ∧ k ∈ spriteCells cx cy 0 rows := by
  rw [blit_hit_iff hl]
  refine exists_congr fun k => and_congr_left fun hk => ?_
  rw [cell_blit hl, decide_eq_true hk]
  cases cell f k <;> decide

theorem blit_blit_zero_hit_iff :
    (blit (blit 0 cx cy rows).1 cx cy rows).2 = true ↔ ∃ row ∈ rows, row ≠ 0 := by
  rw [blit_blit_hit_iff hl, ← exists_mem_spriteCells_iff (cx := cx) (cy := cy) (r0 := 0)]
  simp only [cell_zero, true_and]

end Blit

/-! ### The instruction DRW (R181) -/

theorem flagByte_eq_zero_or_one (b : Bool) : flagByte b = 0 ∨ flagByte b = 1 := by
  cases b <;> decide

theorem flagByte_eq_one_iff {b : Bool} : flagByte b = 1 ↔ b = true := by
  cases b <;> decide

/-- A sprite has at most 15 rows, so it never wraps onto itself. -/
theorem length_loadBytes_le (s : State) (a : Nat) (n : BitVec 4) : (s.loadBytes a n.toNat).length ≤ 32 := by
  rw [State.loadBytes, List.length_map, List.length_range]
  omega

theorem exists_mem_loadBytes {P : Byte → Prop} {s : State} {a n : Nat} :
    (∃ b ∈ s.loadBytes a n, P b) ↔ ∃ r, r < n ∧ P (s.loadByte (a + r)) := by
  simp [State.loadBytes]

theorem reg_VF_completed_drw (x y : RegIx) (n : BitVec 4) (s : State) :
    (completed (.drw x y n) s).reg VF = flagByte (drawn s x y n.toNat).2 :=
  reg_setReg_advance _ VF _ 2

/-- A draw with its coordinates not in x[15] leaves them, I and memory to an equal draw. -/
theorem drawn_completed_drw {x y : RegIx} (hx : x ≠ VF) (hy : y ≠ VF) (n : BitVec 4) (s : State) (m : Nat) :
    drawn (completed (.drw x y n) s) x y m =
      blit (drawn s x y n.toNat).1 (s.reg x).toNat (s.reg y).toNat (s.loadBytes s.I.toNat m) := by
  have hreg := (completed_unchanged (.drw x y n) s).reg
  rw [drawn, hreg x (by simpa [writtenRegs] using hx), hreg y (by simpa [writtenRegs] using hy)]
  rfl

/-- Settles O54: the cells the sprite toggles are the pixels its bits fall on, and the flag says whether one was set. -/
theorem drawIsPixelwiseXor : Obligations.DrawIsPixelwiseXor := by
  refine ⟨Laws.decodesAs_row (.drw 0 0 0), fun x y n s => ⟨fun h => ?_, fun hn h => ?_⟩⟩
  · have hl := length_loadBytes_le s s.I.toNat n
    refine ⟨_, exec_of_faultOf_none (checkSprite_eq_none.2 (by omega)), fun px py hx hy => ?_, ?_, ?_, rfl, rfl,
      completed_unchanged (.drw x y n) s⟩
    · exact cell_blit_pixel hl s.fb _ _ hx hy
    · rw [reg_VF_completed_drw]
      exact flagByte_eq_zero_or_one _
    · rw [reg_VF_completed_drw, flagByte_eq_one_iff]
      exact (blit_hit_iff hl s.fb _ _).trans (exists_mem_spriteCells_cell_iff hl s.fb _ _ true)
  · exact takesFault_of_faultOf (checkSprite_eq_some.2 ⟨by omega, by omega, rfl⟩)

/-- Settles O55: the second draw toggles the same cells again, and finds set those that were clear at the start. -/
theorem drawTwiceRestores : Obligations.DrawTwiceRestores := by
  intro s t x y n hx hy _ ht hrun
  obtain ⟨hf, rfl⟩ | ⟨f, -, rfl⟩ := exec_next_cases ht
  · have hl := length_loadBytes_le s s.I.toNat n
    have hdraw := drawn_completed_drw hx hy n s n.toNat
    refine ⟨_, exec_of_faultOf_none hf, ?_, ?_, ?_, fun hfb => ?_⟩
    · exact (congrArg Prod.fst hdraw).trans (blit_blit hl s.fb _ _)
    · rw [reg_VF_completed_drw]
      exact flagByte_eq_zero_or_one _
    · rw [reg_VF_completed_drw, flagByte_eq_one_iff, hdraw]
      exact (blit_blit_hit_iff hl s.fb _ _).trans (exists_mem_spriteCells_cell_iff hl s.fb _ _ false)
    · rw [reg_VF_completed_drw, flagByte_eq_one_iff, hdraw, drawn, hfb]
      exact (blit_blit_zero_hit_iff hl _ _).trans exists_mem_loadBytes
  · cases hrun

end Sys2Proof.Machine
end

section
/-! PROOFS. Keys and timers (45_input_timers.md): the key a register names, the least pressed key, and timers set before the tick. -/

namespace Sys2Proof.Machine

/-! ### Key cells (10_state.md R35) -/

theorem keyPressed_ofFin_iff {s : State} {k : Fin 16} : s.keyPressed (BitVec.ofFin k) = true ↔ s.keys[k] ≠ 0 :=
  bne_iff_ne

/-- A register's value that is a key number names the cell of that number. -/
theorem keyPressed_operand {s : State} {x : RegIx} (h : (s.reg x).toNat < 16) :
    s.keyPressed ((s.reg x).setWidth 4) = (s.keys[(s.reg x).toNat] != 0) := by
  simp only [State.keyPressed, BitVec.toNat_setWidth, Nat.mod_eq_of_lt h]

/-! ### Skips on a key (R190, R191) -/

theorem skip_ne_zero_pc (s : State) (b : Byte) : (s.skip (b != 0)).pc = s.pc + (if b = 0 then 2 else 4) := by
  by_cases hb : b = 0 <;> simp [hb]

theorem skip_not_ne_zero_pc (s : State) (b : Byte) : (s.skip (!(b != 0))).pc = s.pc + (if b = 0 then 4 else 2) := by
  by_cases hb : b = 0 <;> simp [hb]

/-- Settles O56: a value up to 15 passes the check, and the skip is on the cell it names; a larger one fails it. -/
theorem skipsOnKey : Obligations.SkipsOnKey := by
  refine ⟨Laws.decodesAs_row (.skp 0), Laws.decodesAs_row (.sknp 0), fun x s => ⟨fun h => ⟨?_, ?_⟩, fun h => ⟨?_, ?_⟩⟩⟩
  · refine ⟨_, exec_of_faultOf_none (if_neg (by omega)), ?_, completed_unchanged (.skp x) s⟩
    rw [completed, keyPressed_operand h, skip_ne_zero_pc]
  · refine ⟨_, exec_of_faultOf_none (if_neg (by omega)), ?_, completed_unchanged (.sknp x) s⟩
    rw [completed, keyPressed_operand h, skip_not_ne_zero_pc]
  · exact takesFault_of_faultOf (if_pos h)
  · exact takesFault_of_faultOf (if_pos h)

/-! ### The key wait (R193) -/

/-- The converse of `lowestPressed_eq_some`: there is only one least pressed key. -/
theorem lowestPressed_of_least {s : State} {k : BitVec 4} (hk : s.keyPressed k = true)
    (hlow : ∀ j, j < k → s.keyPressed j = false) : lowestPressed s = some k := by
  cases hfound : lowestPressed s with
  | none => exact absurd hk (Bool.eq_false_iff.1 (lowestPressed_eq_none.1 hfound k))
  | some m =>
    obtain ⟨hm, hbelow⟩ := lowestPressed_eq_some hfound
    have hmk : m ≤ k := BitVec.not_lt.1 fun hgt => Bool.eq_false_iff.1 (hbelow k hgt) hk
    have hkm : k ≤ m := BitVec.not_lt.1 fun hlt => Bool.eq_false_iff.1 (hlow m hlt) hm
    rw [BitVec.le_antisymm hmk hkm]

theorem lowestPressed_of_least_cell {s : State} {k : Fin 16} (hk : s.keys[k] ≠ 0)
    (hlow : ∀ j : Fin 16, j < k → s.keys[j] = 0) : lowestPressed s = some (BitVec.ofFin k) :=
  lowestPressed_of_least (keyPressed_ofFin_iff.2 hk) fun j hj =>
    Bool.eq_false_iff.2 fun hp => keyPressed_ofFin_iff.1 hp (hlow j.toFin hj)

/-- LD Vx,K advances on the least pressed key, beside `completed_ldVxK_of_no_key` (R193). -/
theorem completed_ldVxK_of_least_cell {s : State} {k : Fin 16} (x : RegIx) (hk : s.keys[k] ≠ 0)
    (hlow : ∀ j : Fin 16, j < k → s.keys[j] = 0) :
    completed (.ldVxK x) s = (s.setReg x ((BitVec.ofFin (w := 4) k).setWidth 8)).advance 2 := by
  rw [completed, lowestPressed_of_least_cell hk hlow]
  rfl

/-- Settles O57, by the least pressed key being the one found, or none. -/
theorem waitForKey : Obligations.WaitForKey := by
  refine ⟨Laws.decodesAs_row (.ldVxK 0), fun x s => ⟨fun hnone => ?_, fun k hk hlow => ?_⟩⟩
  · exact (exec_of_faultOf_none rfl).trans (congrArg _ (completed_ldVxK_of_no_key hnone x))
  · have hdone := completed_ldVxK_of_least_cell x hk hlow
    refine ⟨_, exec_of_faultOf_none rfl, ?_, congrArg State.pc hdone, completed_unchanged (.ldVxK x) s⟩
    rw [hdone, reg_setReg_advance]
    exact BitVec.toNat_setWidth_of_le (by decide)

/-! ### The timers (R192, R194, R195) -/

/-- Settles O58, by what each leaves and the rules of the tick for the timers and events it finds. -/
theorem timerInstructions : Obligations.TimerInstructions := by
  refine ⟨Laws.decodesAs_row (.ldVxDT 0), Laws.decodesAs_row (.ldDTVx 0), Laws.decodesAs_row (.ldSTVx 0),
    fun x s => ⟨?_, ?_, ?_⟩⟩
  · exact ⟨_, exec_of_faultOf_none rfl, reg_setReg_advance s x s.DT 2, rfl, completed_unchanged (.ldVxDT x) s,
      tick_DT_toNat (completed (.ldVxDT x) s)⟩
  · exact ⟨_, exec_of_faultOf_none rfl, rfl, rfl, completed_unchanged (.ldDTVx x) s,
      tick_DT_toNat (completed (.ldDTVx x) s)⟩
  · exact ⟨_, exec_of_faultOf_none rfl, rfl, rfl, completed_unchanged (.ldSTVx x) s,
      tick_ST_toNat (completed (.ldSTVx x) s), tick_events (completed (.ldSTVx x) s)⟩

end Sys2Proof.Machine
end

section
/-! PROOFS. Faults (60_exceptions.md): the causes of the six faults, the precision of a fault, and the codes. -/

namespace Sys2Proof.Machine

/-! ### What an instruction raises, and why (R211, R215) -/

/-- The rows of R211 that an instruction raises: the cause of each fault and the info it records. -/
inductive Raises (s : State) : Instr → Fault → Prop
  | ret : s.sp.val = 0 → Raises s .ret (.stackUnderflow s.pc.toNat)
  | call (nnn) : s.sp.val = 16 → Raises s (.call nnn) (.stackOverflow s.pc.toNat)
  | skp (x) : 15 < (s.reg x).toNat → Raises s (.skp x) (.keyNumber (s.reg x).toNat)
  | sknp (x) : 15 < (s.reg x).toNat → Raises s (.sknp x) (.keyNumber (s.reg x).toNat)
  | drw (x y n) : 0 < n.toNat → 4095 < s.I.toNat + n.toNat - 1 →
      Raises s (.drw x y n) (.dataAddress (max s.I.toNat 4096))
  | ldRegs (x) : 4095 < s.I.toNat + x.toNat → Raises s (.ldRegs x) (.dataAddress (max s.I.toNat 4096))
  | ldB (x) : 4095 < s.I.toNat + 2 → Raises s (.ldB x) (.dataAddress (max s.I.toNat 4096))
  | stRegs (x) : 4095 < s.I.toNat + x.toNat → Raises s (.stRegs x) (.dataAddress (max s.I.toNat 4096))
  | ldBFont (x) : s.I.toNat < 80 → s.cfg.fontWrite = .fault → Raises s (.ldB x) (.fontWrite s.I.toNat)
  | stRegsFont (x) : s.I.toNat < 80 → s.cfg.fontWrite = .fault → Raises s (.stRegs x) (.fontWrite s.I.toNat)

theorem raises_of_faultOf {i : Instr} {s : State} {f : Fault} (h : faultOf i s = some f) : Raises s i f := by
  cases i with
  | ret =>
    obtain ⟨hsp, ⟨⟩⟩ := Option.ite_none_right_eq_some.1 h
    exact .ret hsp
  | call nnn =>
    obtain ⟨hsp, ⟨⟩⟩ := Option.ite_none_left_eq_some.1 h
    exact .call nnn (by omega)
  | skp x =>
    obtain ⟨hk, ⟨⟩⟩ := Option.ite_none_right_eq_some.1 h
    exact .skp x hk
  | sknp x =>
    obtain ⟨hk, ⟨⟩⟩ := Option.ite_none_right_eq_some.1 h
    exact .sknp x hk
  | drw x y n =>
    obtain ⟨hn, hb, rfl⟩ := checkSprite_eq_some.1 h
    exact .drw x y n (by omega) (by omega)
  | ldB x =>
    obtain ⟨hb, rfl⟩ | ⟨-, ⟨-, hlo, hw⟩, rfl⟩ := checkRange_eq_some.1 h
    · exact .ldB x hb
    · exact .ldBFont x hlo hw
  | stRegs x =>
    obtain ⟨hb, rfl⟩ | ⟨-, ⟨-, hlo, hw⟩, rfl⟩ := checkRange_eq_some.1 h
    · exact .stRegs x hb
    · exact .stRegsFont x hlo hw
  | ldRegs x =>
    obtain ⟨hb, rfl⟩ | ⟨-, ⟨hk, -⟩, -⟩ := checkRange_eq_some.1 h
    · exact .ldRegs x hb
    · cases hk
  | _ => cases h

theorem Raises.faultOf_eq {i : Instr} {s : State} {f : Fault} (h : Raises s i f) : faultOf i s = some f := by
  cases h with
  | ret h => exact if_pos h
  | call nnn h => exact if_neg (by omega)
  | skp x h => exact if_pos h
  | sknp x h => exact if_pos h
  | drw x y n hn h => exact checkSprite_eq_some.2 ⟨by omega, by omega, rfl⟩
  | ldRegs x h => exact checkRange_eq_dataAddress .read h
  | ldB x h => exact checkRange_eq_dataAddress .write h
  | stRegs x h => exact checkRange_eq_dataAddress .write h
  | ldBFont x hlo hw => exact checkRange_write_eq_fontWrite (by simp only [effectiveAddr]; omega) hlo hw
  | stRegsFont x hlo hw => exact checkRange_write_eq_fontWrite (by simp only [effectiveAddr]; omega) hlo hw

/-! ### The fault of a step (R212, R213) -/

/-- A step ends with a fault exactly when the fetch or the instruction fetched raises it. -/
theorem step_fault_iff {s t : State} (h : step s = .next t) (f : Fault) :
    t.fault = some f ↔
      (4094 < s.pc.toNat ∧ f = .fetchAddress s.pc.toNat) ∨ ∃ i, Fetches s i ∧ Raises s i f := by
  obtain ⟨hr, -⟩ := step_next_cases h
  constructor
  · intro hf
    exact (step_fault_cause h hf).imp id fun ⟨i, hi, hif⟩ => ⟨i, hi, raises_of_faultOf hif⟩
  · rintro (⟨hpc, rfl⟩ | ⟨i, hi, hif⟩)
    · rw [step_fetch_fault hr hpc] at h
      cases h
      rfl
    · rw [step_faults hr hi hif.faultOf_eq] at h
      cases h
      rfl

/-- Only the fetch raises the fetch fault. -/
theorem step_fetchAddress_iff {s t : State} (h : step s = .next t) (a : Nat) :
    t.fault = some (.fetchAddress a) ↔ 4094 < s.pc.toNat ∧ a = s.pc.toNat := by
  rw [step_fault_iff h]
  constructor
  · rintro (⟨hpc, ha⟩ | ⟨i, -, hi⟩)
    · exact ⟨hpc, Fault.fetchAddress.inj ha⟩
    · cases hi
  · rintro ⟨hpc, rfl⟩
    exact .inl ⟨hpc, rfl⟩

/-- The fetch raises no fault but its own. -/
theorem step_fault_iff_raises {s t : State} (h : step s = .next t) {f : Fault} (hf : ∀ a, f ≠ .fetchAddress a) :
    t.fault = some f ↔ ∃ i, Fetches s i ∧ Raises s i f :=
  (step_fault_iff h f).trans (or_iff_right fun ⟨_, he⟩ => hf _ he)

/-! ### Which fetched instructions raise each fault -/

section Fetched

variable {s : State}

theorem fetched_raises_dataAddress_iff {a : Nat} :
    (∃ i, Fetches s i ∧ Raises s i (.dataAddress a)) ↔ a = max s.I.toNat 4096 ∧
      ((∃ x y n, Fetches s (.drw x y n) ∧ 0 < n.toNat ∧ 4095 < s.I.toNat + n.toNat - 1) ∨
       (∃ x, Fetches s (.ldB x) ∧ 4095 < s.I.toNat + 2) ∨
       (∃ x, (Fetches s (.stRegs x) ∨ Fetches s (.ldRegs x)) ∧ 4095 < s.I.toNat + x.toNat)) := by
  constructor
  · rintro ⟨i, hi, hr⟩
    cases hr with
    | drw x y n hn hb => exact ⟨rfl, .inl ⟨x, y, n, hi, hn, hb⟩⟩
    | ldB x hb => exact ⟨rfl, .inr (.inl ⟨x, hi, hb⟩)⟩
    | stRegs x hb => exact ⟨rfl, .inr (.inr ⟨x, .inl hi, hb⟩)⟩
    | ldRegs x hb => exact ⟨rfl, .inr (.inr ⟨x, .inr hi, hb⟩)⟩
  · rintro ⟨rfl, ⟨x, y, n, hi, hn, hb⟩ | ⟨x, hi, hb⟩ | ⟨x, hi | hi, hb⟩⟩
    · exact ⟨_, hi, .drw x y n hn hb⟩
    · exact ⟨_, hi, .ldB x hb⟩
    · exact ⟨_, hi, .stRegs x hb⟩
    · exact ⟨_, hi, .ldRegs x hb⟩

theorem fetched_raises_keyNumber_iff {k : Nat} :
    (∃ i, Fetches s i ∧ Raises s i (.keyNumber k)) ↔
      ∃ x, (Fetches s (.skp x) ∨ Fetches s (.sknp x)) ∧ 15 < (s.reg x).toNat ∧ k = (s.reg x).toNat := by
  constructor
  · rintro ⟨i, hi, hr⟩
    cases hr with
    | skp x hk => exact ⟨x, .inl hi, hk, rfl⟩
    | sknp x hk => exact ⟨x, .inr hi, hk, rfl⟩
  · rintro ⟨x, hi | hi, hk, rfl⟩
    · exact ⟨_, hi, .skp x hk⟩
    · exact ⟨_, hi, .sknp x hk⟩

theorem fetched_raises_fontWrite_iff {a : Nat} :
    (∃ i, Fetches s i ∧ Raises s i (.fontWrite a)) ↔
      a = s.I.toNat ∧ s.I.toNat < 80 ∧ s.cfg.fontWrite = .fault ∧
        ∃ x, Fetches s (.ldB x) ∨ Fetches s (.stRegs x) := by
  constructor
  · rintro ⟨i, hi, hr⟩
    cases hr with
    | ldBFont x hlo hw => exact ⟨rfl, hlo, hw, x, .inl hi⟩
    | stRegsFont x hlo hw => exact ⟨rfl, hlo, hw, x, .inr hi⟩
  · rintro ⟨rfl, hlo, hw, x, hi | hi⟩
    · exact ⟨_, hi, .ldBFont x hlo hw⟩
    · exact ⟨_, hi, .stRegsFont x hlo hw⟩

theorem fetched_raises_stackOverflow_iff {p : Nat} :
    (∃ i, Fetches s i ∧ Raises s i (.stackOverflow p)) ↔
      p = s.pc.toNat ∧ s.sp.val = 16 ∧ ∃ nnn, Fetches s (.call nnn) := by
  constructor
  · rintro ⟨i, hi, hr⟩
    cases hr with
    | call nnn hsp => exact ⟨rfl, hsp, nnn, hi⟩
  · rintro ⟨rfl, hsp, nnn, hi⟩
    exact ⟨_, hi, .call nnn hsp⟩

theorem fetched_raises_stackUnderflow_iff {p : Nat} :
    (∃ i, Fetches s i ∧ Raises s i (.stackUnderflow p)) ↔ p = s.pc.toNat ∧ s.sp.val = 0 ∧ Fetches s .ret := by
  constructor
  · rintro ⟨i, hi, hr⟩
    cases hr with
    | ret hsp => exact ⟨rfl, hsp, hi⟩
  · rintro ⟨rfl, hsp, hi⟩
    exact ⟨_, hi, .ret hsp⟩

end Fetched

/-- Settles O15: the fetch fault is the fetch's alone, every other is raised by the instructions of its row. -/
theorem faultCauses : Obligations.FaultCauses := by
  intro s t h
  have hraises {f : Fault} (hf : ∀ a, f ≠ .fetchAddress a) := step_fault_iff_raises h hf
  refine ⟨step_fetchAddress_iff h, fun a => ?_, fun k => ?_, fun a => ?_, fun p => ?_, fun p => ?_⟩
  · exact (hraises (by nofun)).trans fetched_raises_dataAddress_iff
  · exact (hraises (by nofun)).trans fetched_raises_keyNumber_iff
  · exact (hraises (by nofun)).trans fetched_raises_fontWrite_iff
  · exact (hraises (by nofun)).trans fetched_raises_stackOverflow_iff
  · exact (hraises (by nofun)).trans fetched_raises_stackUnderflow_iff

/-! ### Precision and codes (R211 to R213) -/

/-- Settles O14: of the ways a step ends only the first records a fault, on the state with no event emitted yet. -/
theorem faultsArePrecise : Obligations.FaultsArePrecise := by
  intro s t f h hf
  refine ⟨?_, step_faulted hf⟩
  obtain ⟨-, g, rfl⟩ | ⟨-, hn, -⟩ | ⟨i, -, -, hn, -⟩ := step_next_outcomes h
  · cases hf
    rfl
  · cases hn.symm.trans hf
  · cases hn.symm.trans hf

/-- Settles O16, by the table of R211 as the model writes it. -/
theorem faultAndReportCodes : Obligations.FaultAndReportCodes :=
  fun _ _ => ⟨rfl, rfl, rfl⟩

end Sys2Proof.Machine
end

section
/-! PROOFS. The host's actions between steps (60_exceptions.md R230): keys, the redraw flag and a load keep the invariant. -/

namespace Sys2Proof.Machine

/-! ### Stores above the font table -/

/-- A store into memory above the font table keeps the invariant. -/
theorem Inv.storeByte {s : State} (h : Inv s) {a : Nat} (hlo : 80 ≤ a) (hhi : a < 4096) (v : Byte) :
    Inv (s.storeByte a v) :=
  { h with
    memWf := storeByte_wf h.memWf hhi v
    font := fun hw b hb => (loadByte_storeByte_other s v (by omega)).trans (h.font hw b hb) }

theorem Inv.storeBytes {s : State} (h : Inv s) {a : Nat} {bytes : List Byte} (hlo : 80 ≤ a)
    (hhi : a + bytes.length ≤ 4096) : Inv (s.storeBytes a bytes) := by
  induction bytes generalizing s a with
  | nil => exact h
  | cons v vs ih =>
    rw [List.length_cons] at hhi
    exact ih (h.storeByte hlo (by omega) v) (by omega) (by omega)

/-- A load that succeeds writes its bytes from 512 on, up to the end of memory (70_reset_and_hazards.md R244). -/
theorem load_eq_loaded {bytes : List Byte} {s t : State} (h : load bytes s = .loaded t) :
    bytes.length ≤ 3584 ∧ t = s.storeBytes 512 bytes := by
  unfold load at h
  split at h
  · cases h
  · cases h
    exact ⟨by omega, rfl⟩

/-! ### The actions -/

/-- Settles O21: the invariant does not speak of keys and redraw, and a load stores above the font table. -/
theorem hostActionsKeepInvariant : Obligations.HostActionsKeepInvariant := by
  refine fun s h => ⟨fun k b => h.congr rfl rfl rfl rfl rfl, h.congr rfl rfl rfl rfl rfl, fun bytes t ht => ?_⟩
  obtain ⟨hlen, rfl⟩ := load_eq_loaded ht
  exact h.storeBytes (by omega) (by omega)

theorem keyPressed_setKey (k j : BitVec 4) (b : Bool) (s : State) :
    (setKey k b s).keyPressed j = if j = k then b else s.keyPressed j := by
  by_cases hj : j = k
  · cases b <;> simp [State.keyPressed, setKey, hj]
  · have hne : k.toNat ≠ j.toNat := fun he => hj (BitVec.eq_of_toNat_eq he.symm)
    simp [State.keyPressed, setKey, hj, hne]

/-- Settles O32: the one key set reads as it was set, and the rest is what each action writes down. -/
theorem hostActionsDoOnlyWhatTheyMay : Obligations.HostActionsDoOnlyWhatTheyMay :=
  fun s k b => ⟨fun j => keyPressed_setKey k j b s, rfl, rfl, rfl, rfl, fun _ _ => rfl⟩

end Sys2Proof.Machine
end

section
/-! PROOFS. Reset and hazards (70_reset_and_hazards.md): who reads the redraw flag and the key cells, and the loader. -/

namespace Sys2Proof.Machine

/-! ### The redraw flag (R253) -/

/-- An instruction reads nothing of the redraw flag; CLS and DRW set it, and the others leave it as it is. -/
theorem completed_with_redraw (i : Instr) (s : State) (b : Bool) :
    ∃ r, completed i { s with redraw := b } = { completed i s with redraw := r } := by
  cases i with
  | cls | drw => exact ⟨true, rfl⟩
  | call nnn =>
    simp only [completed]
    split <;> exact ⟨b, rfl⟩
  | ldVxK x =>
    have hk : lowestPressed { s with redraw := b } = lowestPressed s := rfl
    simp only [completed, hk]
    cases lowestPressed s <;> exact ⟨b, rfl⟩
  | stRegs x =>
    have hs := storeRegs_comm (fun s => { s with redraw := b }) (fun _ _ => rfl) (fun _ _ _ => rfl) s
    exact ⟨b, congrArg (fun u => (u.bumpI x).advance 2) (hs _ _)⟩
  | ldRegs x =>
    have hl := loadRegs_comm (fun s => { s with redraw := b }) (fun _ _ => rfl) (fun _ _ _ => rfl) s
    exact ⟨b, congrArg (fun u => (u.bumpI x).advance 2) (hl _ _)⟩
  | _ => exact ⟨b, rfl⟩

theorem tick_with_redraw (s : State) (b : Bool) : { s with redraw := b }.tick = { s.tick with redraw := b } := by
  rw [tick_eq, tick_eq]

/-- Settles O26, outcome by outcome of a step: what it fetches, which fault it raises and what it completes to do not
depend on the flag. -/
theorem redrawFlagIsNeverRead : Obligations.RedrawFlagIsNeverRead := by
  intro s t b h
  obtain ⟨hr, ⟨hpc, rfl⟩ | ⟨hu, rfl⟩ | ⟨i, hi, -⟩⟩ := step_next_cases h
  · exact ⟨b, step_fetch_fault (s := { s with redraw := b }) hr hpc⟩
  · have htick := tick_with_redraw ((s.clearEvents.emit (.unknownOpcode (wordAtPc s))).advance 2) b
    exact ⟨b, (step_unclassified (s := { s with redraw := b }) hr hu).trans (congrArg Host.Outcome.next htick)⟩
  · cases hf : faultOf i s with
    | none =>
      rw [step_completes hr hi hf] at h
      cases h
      obtain ⟨r, hc⟩ := completed_with_redraw i s.clearEvents b
      have htick := (congrArg State.tick hc).trans (tick_with_redraw _ r)
      exact ⟨r, (step_completes (s := { s with redraw := b }) hr hi hf).trans (congrArg Host.Outcome.next htick)⟩
    | some f =>
      rw [step_faults hr hi hf] at h
      cases h
      exact ⟨b, step_faults (s := { s with redraw := b }) hr hi hf⟩

/-! ### The key cells (R252) -/

/-- An instruction other than SKP, SKNP and LD Vx,K completes the same way whatever the key cells hold. -/
theorem completed_with_keys {i : Instr} (hi : ∀ x, i ≠ .skp x ∧ i ≠ .sknp x ∧ i ≠ .ldVxK x) (s : State)
    (ks : Vector Byte 16) : completed i { s with keys := ks } = { completed i s with keys := ks } := by
  cases i with
  | skp x | sknp x | ldVxK x => simpa using hi x
  | call nnn =>
    simp only [completed]
    split <;> rfl
  | stRegs x =>
    have hs := storeRegs_comm (fun s => { s with keys := ks }) (fun _ _ => rfl) (fun _ _ _ => rfl) s
    exact congrArg (fun u => (u.bumpI x).advance 2) (hs _ _)
  | ldRegs x =>
    have hl := loadRegs_comm (fun s => { s with keys := ks }) (fun _ _ => rfl) (fun _ _ _ => rfl) s
    exact congrArg (fun u => (u.bumpI x).advance 2) (hl _ _)
  | _ => rfl

/-- Settles O29: no fault depends on a key cell, and what a completed instruction leaves does so only for the three. -/
theorem keysAreReadOnlyByKeyInstructions : Obligations.KeysAreReadOnlyByKeyInstructions := by
  intro i s t ks hi h
  obtain ⟨hf, rfl⟩ | ⟨f, hf, rfl⟩ := exec_next_cases h
  · rw [← completed_with_keys hi]
    exact exec_of_faultOf_none (s := { s with keys := ks }) hf
  · exact exec_of_faultOf_some (s := { s with keys := ks }) hf

/-! ### The loader (R244) -/

theorem load_too_large {bytes : List Byte} (h : 3584 < bytes.length) (s : State) :
    load bytes s = .programTooLarge bytes.length :=
  if_pos h

theorem load_fits {bytes : List Byte} (h : bytes.length ≤ 3584) (s : State) :
    load bytes s = .loaded (s.storeBytes 512 bytes) :=
  if_neg (by omega)

/-- Bytes written in order stand in that order: none is overwritten by a later one. -/
theorem loadByte_storeBytes (s : State) (a : Nat) (bytes : List Byte) (i : Nat) (hi : i < bytes.length) :
    (s.storeBytes a bytes).loadByte (a + i) = bytes[i] := by
  induction bytes generalizing s a i with
  | nil => cases hi
  | cons v vs ih =>
    cases i with
    | zero =>
      have hlater : Unchanged [] [] (a < ·) (s.storeByte a v) ((s.storeByte a v).storeBytes (a + 1) vs) :=
        (Unchanged.refl ..).storeBytes _ _ fun k _ => by omega
      exact (hlater.mem a (by omega)).trans (loadByte_storeByte_same s a v)
    | succ i =>
      rw [← show a + 1 + i = a + (i + 1) by omega]
      exact ih (s.storeByte a v) (a + 1) i (by simpa using hi)

/-- With no program in memory the first fetch reads the word 0, which is CLS. -/
theorem fetches_cls_initial (cfg : Config) : Fetches (State.initial cfg) .cls := by
  obtain ⟨hinit, -⟩ := valuesAfterInitialization
  obtain ⟨-, hzero, -⟩ := hinit cfg
  have hpc : (State.initial cfg).pc.toNat = 512 := rfl
  refine ⟨by omega, ?_⟩
  rw [wordAtPc, hpc, hzero 512 (by omega), hzero 513 (by omega)]
  rfl

/-- Settles O31: of the two sides of the length bound one writes nothing and the other every byte at its place. -/
theorem loaderContract : Obligations.LoaderContract := by
  refine ⟨fun bytes s => ⟨fun h => load_too_large h s, fun h => ⟨_, load_fits h s, ?_, ?_⟩⟩, fun cfg => ⟨rfl, ?_⟩⟩
  · exact loadByte_storeBytes s 512 bytes
  · exact (Unchanged.refl ..).storeBytes 512 bytes fun k hk => by omega
  · exact fetches_cls_initial cfg

end Sys2Proof.Machine
end
